-- ==== Sys2Proof/Word.lean ====
section
/-! DEFINITION. The word types of the machine and their plainest conversions (00_scope.md R7). -/

namespace Sys2Proof

/-- A memory cell, a general register, a timer (R21, R27, R60). -/
abbrev Byte := BitVec 8

/-- An instruction word, the address register, the program counter, a stack entry (R23, R24, R26, R90). -/
abbrev Word := BitVec 16

/-- A register index, a 4-bit count, a key index (R91, R269). -/
abbrev Nibble := BitVec 4

/-- The 12-bit address field `nnn` (R91). -/
abbrev Addr := BitVec 12

/-- `zext_8` of R8: widened with zeros. -/
def Nibble.toByte (n : Nibble) : Byte := n.setWidth 8

/-- `zext_16` of R8. -/
def Byte.toWord (b : Byte) : Word := b.setWidth 16

/-- `zext_16` of R8: an address field as an unsigned 16-bit value, never sign-extended (R93). -/
def Addr.toWord (a : Addr) : Word := a.setWidth 16

end Sys2Proof
end

