-- ==== Sys2Proof/Config.lean ====
section
/-! DEFINITION. The fixed parameters of 00_scope.md R4, the open parameters of R6 as constants without a body, and
the answers of the host (60_exceptions.md R279) as free values. -/

namespace Sys2Proof

/-! ## Fixed parameters (R4) -/

def Config.memSize : Nat := 4096
def Config.fontBase : Nat := 0x080
def Config.fontLen : Nat := 80
def Config.progBase : Nat := 0x200
def Config.progMax : Nat := 3584
def Config.stackDepth : Nat := 1792
/-- The default of `CPF` (R5). -/
def Config.defaultCpf : Nat := 20

/-! ## The raw key codes (R6 `RAW_CODE`, R269) -/

/-- The sixteen listed key characters of R269. -/
inductive KeyName where
  | k1 | k2 | k3 | k4 | kQ | kW | kE | kR | kA | kS | kD | kF | kZ | kX | kC | kV
deriving DecidableEq, Repr

/-- A raw code as the external key source delivers it. DESIGN CHOICE (log 5): the numbers are open (`RAW_CODE`, D22), so
a code is known only as one of the 17 listed ones or as some other code; `RAW_CODE` is injective by construction. -/
inductive RawCode where
  | key (k : KeyName)
  | esc
  | other (code : Nat)
deriving DecidableEq, Repr

/-- One answer of the key source: `none` is "no key" (R268) or an absent read (R233). -/
abbrev KeyAnswer := Option RawCode

/-! ## Open parameters (R6) -/

/-- `XF_ORDER`: what VF ends with when it is the destination of a flag-setting instruction (R173). -/
inductive XfOrder where
  | flagLast
  | resultLast
deriving DecidableEq, Repr, Inhabited

/-- `FONT[0..79]` (R6, D23). -/
opaque Config.font : Fin 80 → Byte

/-- How far `KEY_HOLD` lies above its least value 1 (R6, D21). -/
opaque Config.keyHoldAboveOne : Nat
/-- `KEY_HOLD >= 1` (R6). -/
def Config.keyHold : Nat := Config.keyHoldAboveOne + 1

/-- How far `KEY_SLOT_BITS` lies above the least width that holds the machine's `KEY_HOLD`. -/
opaque Config.keySlotSpareBits : Nat
/-- `KEY_SLOT_BITS` of a machine with this `KEY_HOLD`: `2^KEY_SLOT_BITS > KEY_HOLD` (R6); log 14. -/
def Config.keySlotBits (keyHold : Nat) : Nat := Nat.log2 keyHold + 1 + Config.keySlotSpareBits

/-- How far `CAL_N0` lies above 1 (R6). -/
opaque Config.calN0AboveOne : Nat
/-- `CAL_N0 > 0` (R6). -/
def Config.calN0 : Nat := Config.calN0AboveOne + 1
/-- What `CAL_GROW` adds beyond one more iteration (R6). -/
opaque Config.calGrowExtra : Nat → Nat
/-- `CAL_GROW(n) > n` (R6). -/
def Config.calGrow (n : Nat) : Nat := n + 1 + Config.calGrowExtra n
/-- `CAL_OVERHEAD >= 0` (R6). -/
opaque Config.calOverhead : Nat
/-- How many measurements of the boot calibration read zero elapsed time (free: the host's clock, R271, U21). -/
opaque Config.calRetries : Nat
/-- How far the first nonzero elapsed time of the boot calibration lies above 1 ms. -/
opaque Config.calElapsedAboveOne : Nat
/-- The first nonzero elapsed time the boot calibration measures, in ms (R271). -/
def Config.calElapsed : Nat := Config.calElapsedAboveOne + 1

/-! ## Free answers of the host: the answer to its `n`-th question (log 1) -/

/-- `draw8()`, `RND_SOURCE`: a free byte for each execution of RND (R171, U3). -/
opaque Config.rnd : Nat → Byte
/-- `host.poll()` (R268, U15). -/
opaque Config.poll : Nat → KeyAnswer
/-- `host.wait()` (R233, U15). -/
opaque Config.wait : Nat → KeyAnswer

end Sys2Proof
end

