-- ==== Sys2Proof/Machine/Calibrator.lean ====
section
/-! DEFINITION. The timing calibrator (60_exceptions.md R271, R272), a function of the host's clock readings. -/

namespace Sys2Proof.Machine

/-- The idle count of R271 from the last iteration count `n` and the elapsed time `e` in ms: both divisions round toward zero
and a negative result is clamped to 0 (D28), which is what subtraction of naturals does. -/
def calIdleCount (n e cpf overhead : Nat) : Nat := n / e * 1000 / 60 - cpf - overhead

/-- The measuring loop of R271 over the readings `(t0, t1)` of each attempt: a zero elapsed time grows `n` and retries.
`none`: every reading given was zero, so the loop has not been left. -/
def calMeasure (grow : Nat → Nat) : Nat → List (Nat × Nat) → Option (Nat × Nat)
  | _, [] => none
  | n, (t0, t1) :: rest => if t1 - t0 = 0 then calMeasure grow (grow n) rest else some (n, t1 - t0)

/-- The whole-second fallback clock of R272: `host.clock_ms()` advances in steps of 1000. -/
def clockReading (fallback : Bool) (ms : Nat) : Nat := if fallback then ms / 1000 * 1000 else ms

/-- `calibrate()` of R271. -/
def calibrate (n0 : Nat) (grow : Nat → Nat) (overhead cpf : Nat) (fallback : Bool) (readings : List (Nat × Nat)) :
    Option Nat :=
  (calMeasure grow n0 (readings.map fun t => (clockReading fallback t.1, clockReading fallback t.2))).map fun m =>
    calIdleCount m.1 m.2 cpf overhead

/-- The iteration count after `k` retries (R271). -/
def calGrown (grow : Nat → Nat) (n : Nat) : Nat → Nat
  | 0 => n
  | k + 1 => calGrown grow (grow n) k

/-- The calibrator's result at the boot of this machine: `Config.calRetries` attempts of zero elapsed time, then one of
`Config.calElapsed` ms (log 10). -/
def bootIdleCount (cpf : Nat) : Nat :=
  calIdleCount (calGrown Config.calGrow Config.calN0 Config.calRetries) Config.calElapsed cpf Config.calOverhead

end Sys2Proof.Machine
end

