-- ==== Sys2Proof/Syntax.lean ====
section
/-! DEFINITION. The 35 instructions of spec/opcode_table.json (30_encoding.md R99), one constructor per row, in the
table's order; the fields are those of R91. -/

namespace Sys2Proof

inductive Instr where
  /-- `0nnn` SYS nnn (R120) -/
  | sys (nnn : Addr)
  /-- `00E0` CLS (R210) -/
  | cls
  /-- `00EE` RET (R121) -/
  | ret
  /-- `1nnn` JP nnn (R122) -/
  | jp (nnn : Addr)
  /-- `2nnn` CALL nnn (R123) -/
  | call (nnn : Addr)
  /-- `3xkk` SE Vx, kk (R141) -/
  | seImm (x : Nibble) (kk : Byte)
  /-- `4xkk` SNE Vx, kk (R142) -/
  | sneImm (x : Nibble) (kk : Byte)
  /-- `5xy0` SE Vx, Vy (R143) -/
  | seReg (x y : Nibble)
  /-- `6xkk` LD Vx, kk (R160) -/
  | ldImm (x : Nibble) (kk : Byte)
  /-- `7xkk` ADD Vx, kk (R161) -/
  | addImm (x : Nibble) (kk : Byte)
  /-- `8xy0` LD Vx, Vy (R162) -/
  | ldReg (x y : Nibble)
  /-- `8xy1` OR Vx, Vy (R163) -/
  | orReg (x y : Nibble)
  /-- `8xy2` AND Vx, Vy (R164) -/
  | andReg (x y : Nibble)
  /-- `8xy3` XOR Vx, Vy (R165) -/
  | xorReg (x y : Nibble)
  /-- `8xy4` ADD Vx, Vy (R166) -/
  | addReg (x y : Nibble)
  /-- `8xy5` SUB Vx, Vy (R167) -/
  | sub (x y : Nibble)
  /-- `8xy6` SHR Vx, Vy (R168) -/
  | shr (x y : Nibble)
  /-- `8xy7` SUBN Vx, Vy (R169) -/
  | subn (x y : Nibble)
  /-- `8xyE` SHL Vx, Vy (R170) -/
  | shl (x y : Nibble)
  /-- `9xy0` SNE Vx, Vy (R144) -/
  | sneReg (x y : Nibble)
  /-- `Annn` LD I, nnn (R190) -/
  | ldI (nnn : Addr)
  /-- `Bnnn` JP V0, nnn (R124) -/
  | jpV0 (nnn : Addr)
  /-- `Cxkk` RND Vx, kk (R171) -/
  | rnd (x : Nibble) (kk : Byte)
  /-- `Dxyn` DRW Vx, Vy, n (R211) -/
  | drw (x y n : Nibble)
  /-- `Ex9E` SKP Vx (R145) -/
  | skp (x : Nibble)
  /-- `ExA1` SKNP Vx (R146) -/
  | sknp (x : Nibble)
  /-- `Fx07` LD Vx, DT (R230) -/
  | ldVxDT (x : Nibble)
  /-- `Fx0A` LD Vx, K (R233) -/
  | ldVxK (x : Nibble)
  /-- `Fx15` LD DT, Vx (R231) -/
  | ldDTVx (x : Nibble)
  /-- `Fx18` LD ST, Vx (R232) -/
  | ldSTVx (x : Nibble)
  /-- `Fx1E` ADD I, Vx (R191) -/
  | addI (x : Nibble)
  /-- `Fx29` LD F, Vx (R192) -/
  | ldF (x : Nibble)
  /-- `Fx33` LD B, Vx (R193) -/
  | ldB (x : Nibble)
  /-- `Fx55` LD [I], Vx (R194) -/
  | storeRegs (x : Nibble)
  /-- `Fx65` LD Vx, [I] (R195) -/
  | loadRegs (x : Nibble)
deriving DecidableEq, Repr

end Sys2Proof
end

