-- ==== Sys2Proof/Machine/State.lean ====
section
/-! DEFINITION. The machine's state, plain data (10_state.md R20), its reset value (R39), and the reasons a step stops. -/

namespace Sys2Proof.Machine

/-- Memory: the listed cells, addresses strictly rising, none equal to what an unlisted address reads as
(Machine/Memory.lean: `Memory.wf`). -/
abbrev Memory := List Host.Cell

/-- The display buffer: 32 rows of 64 cells, `disp[r][c]` (R29). -/
abbrev Display := Vector (Vector Bool 64) 32

/-- The quirk flags, latched at reset (R32). -/
structure Quirks where
  lsq : Bool := false
  stq : Bool := false
  vip : Bool := false
  jmp : Bool := false
  cry : Bool := false
deriving DecidableEq, Repr

/-- The four fatal conditions with what each records (R250). -/
inductive Fatal where
  | decodeError (addr word : Word)
  | boundsError (addr : Word)
  | loadError
  | stackError (addr word : Word)
deriving DecidableEq, Repr

/-- The run status with the report of a halt (R10, R35). -/
inductive Status where
  | running
  | halted (report : Fatal)
  | exited
deriving DecidableEq, Repr

/-- The model's own: answers the host has ready at its three ports, taken in order, and the count of questions asked so
far, which indexes the free answers of Config once a list is empty (log 1). -/
structure HostPort where
  polls : List KeyAnswer := []
  waits : List KeyAnswer := []
  rnds : List Byte := []
  asked : Nat := 0
deriving DecidableEq, Repr

/-- The state aggregate of R20, with the latched parameters of R6 and the model's own fields. -/
structure State where
  /-- R60 -/
  mem : Memory
  /-- `V[0..15]` (R21) -/
  v : Vector Byte 16
  /-- the address register `I` (R23) -/
  i : Word
  /-- R24 -/
  pc : Word
  /-- `stack[0..1791]` (R26) -/
  stack : Vector Word 1792
  /-- the number of entries held (R26) -/
  sp : Fin 1793
  /-- R27 -/
  dt : Byte
  /-- R28 -/
  st : Byte
  /-- R29 -/
  disp : Display
  /-- R30 -/
  renderPending : Bool
  /-- R31 -/
  key : Vector Nat 16
  /-- R32 -/
  q : Quirks
  /-- R33 -/
  cpf : Nat
  /-- R34 -/
  skipPending : Bool
  /-- R35 -/
  status : Status
  /-- R36 -/
  idleCount : Nat
  /-- R37 -/
  cyc : Nat
  /-- `XF_ORDER` of this machine, never written (log 3) -/
  xfOrder : XfOrder
  /-- `KEY_HOLD` of this machine, never written (log 2) -/
  keyHold : Nat
  /-- the destination of an `Fx0A` still inside its blocking wait (log 7) -/
  keyWait : Option Nibble
  /-- log 1 -/
  host : HostPort
  /-- the frames exposed on the port render_out, newest first, each 2048 bits row-major (log 12) -/
  renderOut : List (List Bool)
deriving DecidableEq, Repr

/-- Why the machine stops: no step is enabled. -/
inductive Fault where
  /-- Raised by `step` in the status Halted: "no cycle and no frame step occurs" there (R10, R259). Safe. -/
  | machineHalted
  /-- Raised by `step` in the status Exited (R10). Safe. -/
  | machineExited
  /-- Raised by `resetSequence` when every clock reading given is zero: the calibration loop has not been left (R271). Safe. -/
  | calibrationUnfinished
deriving DecidableEq, Repr

/-- Why the model gives no meaning. -/
inductive Refusal where
  /-- Raised by an arm of `exec` whose instruction has no meaning yet. Safe. -/
  | notModelled (mnemonic : String)
  /-- Raised by `step` and `resetSequence` when `CPF` = 0: "the machine is not defined for it" (R33, U20; log 11). Safe. -/
  | clockFactorZero
  /-- Raised by `resetSequence` when `KEY_HOLD` = 0, outside the constraint `KEY_HOLD >= 1` of R6. DESIGN CHOICE (log 19): the
  spec does not say what such a machine is. Safe. -/
  | keyHoldZero
deriving DecidableEq, Repr

abbrev Result := Host.Outcome State Fault Refusal

/-- "All state is created once at startup (zero-initialized ...)" (R300 step 2), before the program is copied in. The empty memory list
already reads as the font (log 4), also after a load failure (log 18). -/
def State.zeroed : State where
  mem := []
  v := Vector.replicate 16 0#8
  i := 0#16
  pc := 0#16
  stack := Vector.replicate 1792 0#16
  sp := 0
  dt := 0#8
  st := 0#8
  disp := Vector.replicate 32 (Vector.replicate 64 false)
  renderPending := false
  key := Vector.replicate 16 0
  q := {}
  cpf := 0
  skipPending := false
  status := .running
  idleCount := 0
  cyc := 0
  xfOrder := .flagLast
  keyHold := Config.keyHold
  keyWait := none
  host := {}
  renderOut := []

/-- The machine right after reset (R39) under the default configuration (R304), no byte of a program placed (log 9). -/
def State.reset : State :=
  { State.zeroed with
    pc := BitVec.ofNat 16 Config.progBase
    cpf := Config.defaultCpf
    idleCount := bootIdleCount Config.defaultCpf }

end Sys2Proof.Machine
end

