-- ==== Sys2Proof/Machine/Memory.lean ====
section
/-! DEFINITION. Memory: what an unlisted cell reads as, the one-byte primitives of 20_memory.md R62 and the canonical form. -/

namespace Sys2Proof.Machine

/-- What an unlisted cell reads as: the reset contents of R39, the font table at 0x080..0x0CF and 0 elsewhere. -/
def Memory.unlisted (a : Nat) : Byte :=
  if h : Config.fontBase ≤ a ∧ a - Config.fontBase < 80 then Config.font ⟨a - Config.fontBase, h.2⟩ else 0#8

/-- The byte listed for a cell. -/
def Memory.lookup : Memory → Nat → Option Byte
  | [], _ => none
  | (a, b) :: rest, k => if a = k then some b else Memory.lookup rest k

/-- List a byte for a cell, keeping the addresses rising. -/
def Memory.insert (k : Nat) (v : Byte) : Memory → Memory
  | [] => [(k, v)]
  | (a, b) :: rest =>
    if k < a then (k, v) :: (a, b) :: rest
    else if k = a then (k, v) :: rest
    else (a, b) :: Memory.insert k v rest

/-- Take a cell off the list. -/
def Memory.erase (k : Nat) (m : Memory) : Memory := m.filter fun c => c.1 != k

/-- `MemRead(a, 1)`: the cell `a mod 4096` (R62). -/
def Memory.read (m : Memory) (a : Nat) : Byte :=
  (Memory.lookup m (a % Config.memSize)).getD (Memory.unlisted (a % Config.memSize))

/-- `MemWrite(a, 1, v)`: the cell `a mod 4096` takes `v` (R62). -/
def Memory.write (m : Memory) (a : Nat) (v : Byte) : Memory :=
  if v = Memory.unlisted (a % Config.memSize) then Memory.erase (a % Config.memSize) m
  else Memory.insert (a % Config.memSize) v m

/-- The bytes `bs` written from address `a` upwards, in ascending order (R65). -/
def Memory.writeBytes (m : Memory) (a : Nat) : List Byte → Memory
  | [] => m
  | b :: bs => Memory.writeBytes (m.write a b) (a + 1) bs

/-- The canonical form: addresses strictly rising inside the 4096 cells, no byte listed that an unlisted cell reads as. -/
abbrev Memory.wf (m : Memory) : Prop :=
  m.Pairwise (fun c d => c.1 < d.1) ∧ ∀ c ∈ m, c.1 < Config.memSize ∧ c.2 ≠ Memory.unlisted c.1

end Sys2Proof.Machine
end

