-- ==== Sys2Proof/Machine/Ops.lean ====
section
/-! DEFINITION. The named operations over the state: registers, memory, program counter, call stack, timers, display and
render output, keypad, the host's answers, and taking a fatal condition. -/

namespace Sys2Proof.Machine

/-! ## General registers and the address register -/

/-- `V[x]` (R8); no register is hardwired (R21). -/
def State.reg (s : State) (x : Nibble) : Byte := s.v[x.toNat]'(x.isLt)

/-- `V[x] <- b` (R8). -/
def State.setReg (s : State) (x : Nibble) (b : Byte) : State := { s with v := s.v.set x.toNat b x.isLt }

/-- The index of the flags register VF (R22). -/
def vf : Nibble := 15#4

/-- `I <- w` (R23). -/
def State.setI (s : State) (w : Word) : State := { s with i := w }

/-! ## Program counter, skip flag -/

/-- `pc <- t` (R24). -/
def State.setPc (s : State) (t : Word) : State := { s with pc := t }

/-- `if c: skip_pending <- 1`: a skip instruction "changes nothing" when its condition does not hold (R140). -/
def State.skipIf (s : State) (c : Bool) : State := { s with skipPending := s.skipPending || c }

/-- The first step of a cycle: a pending skip advances `pc` by 2 and is cleared (R94 step 1, R95). -/
def State.consumeSkip (s : State) : State :=
  if s.skipPending then { s with pc := s.pc + 2#16, skipPending := false } else s

/-! ## Memory (R62) -/

def State.readMem (s : State) (a : Nat) : Byte := s.mem.read a
def State.setMem (s : State) (m : Memory) : State := { s with mem := m }

/-! ## Call stack (R26) -/

/-- CALL's push: `stack[sp] <- t ; sp <- sp + 1` (R123), where there is room. -/
def State.pushReturn (s : State) (t : Word) (h : s.sp.val < 1792) : State :=
  { s with stack := s.stack.set s.sp.val t h, sp := ⟨s.sp.val + 1, Nat.succ_lt_succ h⟩ }

/-- RET's pop: `sp <- sp - 1 ; pc <- stack[sp]` (R121), where there is an entry; the entry is not erased. -/
def State.popReturn (s : State) (h : 0 < s.sp.val) : State :=
  { s with
    sp := ⟨s.sp.val - 1, Nat.lt_of_le_of_lt (Nat.sub_le _ _) s.sp.isLt⟩
    pc := s.stack[s.sp.val - 1]'(by have := s.sp.isLt; omega) }

/-! ## Timers (R27, R28) -/

def State.setDT (s : State) (b : Byte) : State := { s with dt := b }
def State.setST (s : State) (b : Byte) : State := { s with st := b }

/-! ## Display and render output (R29, R30, R265) -/

/-- `disp[r mod 32][c mod 64]` (R77). -/
def Display.get (d : Display) (r c : Nat) : Bool :=
  (d[r % 32]'(Nat.mod_lt _ (by decide)))[c % 64]'(Nat.mod_lt _ (by decide))

/-- `disp[r mod 32][c mod 64] <- disp[r mod 32][c mod 64] ^ 1` (R211). -/
def Display.flip (d : Display) (r c : Nat) : Display :=
  d.set (r % 32)
    ((d[r % 32]'(Nat.mod_lt _ (by decide))).set (c % 64) (!Display.get d r c) (Nat.mod_lt _ (by decide)))
    (Nat.mod_lt _ (by decide))

/-- Every cell 0 (R210). -/
def Display.blank : Display := Vector.replicate 32 (Vector.replicate 64 false)

/-- The 2048 cells in row-major order, row 0 first, column 0 first within a row (R265). -/
def Display.rowMajor (d : Display) : List Bool := (d.toList.map Vector.toList).flatten

/-- The buffer takes a new content and a render is pending (R30). -/
def State.setDisplay (s : State) (d : Display) : State := { s with disp := d, renderPending := true }

/-- `emit_frame(disp) ; render_pending <- 0` (R233, R265). -/
def State.emitFrame (s : State) : State :=
  { s with renderOut := s.disp.rowMajor :: s.renderOut, renderPending := false }

/-! ## Keypad (R31, R269) -/

/-- The key index of a listed key character (R269). -/
def keyIndex : KeyName → Nibble
  | .k1 => 0x1#4 | .k2 => 0x2#4 | .k3 => 0x3#4 | .k4 => 0xC#4
  | .kQ => 0x4#4 | .kW => 0x5#4 | .kE => 0x6#4 | .kR => 0xD#4
  | .kA => 0x7#4 | .kS => 0x8#4 | .kD => 0x9#4 | .kF => 0xE#4
  | .kZ => 0xA#4 | .kX => 0x0#4 | .kC => 0xB#4 | .kV => 0xF#4

/-- `key[k]` (R31). -/
def State.keySlot (s : State) (k : Nibble) : Nat := s.key[k.toNat]'(k.isLt)

/-- "Is key pressed": slot value > 0 (R31, R145). -/
def State.pressed (s : State) (k : Nibble) : Bool := decide (0 < s.keySlot k)

/-- `key[k] <- n`. -/
def State.setKeySlot (s : State) (k : Nibble) (n : Nat) : State := { s with key := s.key.set k.toNat n k.isLt }

/-- `Fx0A`'s clearing: all hold state and both timers (R233). -/
def State.clearKeysAndTimers (s : State) : State :=
  { s with key := Vector.replicate 16 0, dt := 0#8, st := 0#8 }

/-! ## The host's answers (R11, R279; log 1) -/

/-- `draw8()` (R171). -/
def State.rndAnswer (s : State) : Byte := s.host.rnds.headD (Config.rnd s.host.asked)
/-- That draw is used up: no later execution sees it again. -/
def State.askedRnd (s : State) : State :=
  { s with host := { s.host with rnds := s.host.rnds.tail, asked := s.host.asked + 1 } }

/-- `host.poll()` (R268). -/
def State.pollAnswer (s : State) : KeyAnswer := s.host.polls.headD (Config.poll s.host.asked)
def State.askedPoll (s : State) : State :=
  { s with host := { s.host with polls := s.host.polls.tail, asked := s.host.asked + 1 } }

/-- `host.wait()` (R233). -/
def State.waitAnswer (s : State) : KeyAnswer := s.host.waits.headD (Config.wait s.host.asked)
def State.askedWait (s : State) : State :=
  { s with host := { s.host with waits := s.host.waits.tail, asked := s.host.asked + 1 } }

/-! ## The end of a run -/

/-- Taking a fatal condition, "this hardware's only trap entry" (R258): `status <- Halted(kind, addr, word)` and nothing else;
the callers have consumed the skip and advanced `pc` as R258 lists. There is no handler, no saved register, and no return
from it (R259): the state after it has no step. -/
def State.halt (s : State) (report : Fatal) : State := { s with status := .halted report }

/-- A graceful shutdown: `status <- Exited` (R260). A blocking key wait ends with it, and every other component stays as it was:
the model's choice (log 20), since the spec says of an exited machine only that "the state is discarded" (R260, R280). -/
def State.exit (s : State) : State := { s with status := .exited, keyWait := none }

/-- One raw read of `Fx0A`'s loop (R233): a listed key completes the instruction with `V[x]` the key index, ESC ends the
run, an unrecognised or absent read leaves it waiting for the next (log 7). -/
def State.readKey (s : State) (x : Nibble) : State :=
  match s.waitAnswer with
  | some (.key k) => { s.askedWait.setReg x (keyIndex k).toByte with keyWait := none }
  | some .esc => s.askedWait.exit
  | some (.other _) => { s.askedWait with keyWait := some x }
  | none => { s.askedWait with keyWait := some x }

/-- A completed cycle is counted: `cyc <- cyc + 1` if the machine still runs and is not inside an `Fx0A` (R275). -/
def State.countCycle (s : State) : State :=
  match s.status, s.keyWait with
  | .running, none => { s with cyc := s.cyc + 1 }
  | _, _ => s

end Sys2Proof.Machine
end

