-- ==== Sys2Proof/Machine/Operands.lean ====
section
/-! DEFINITION. The operand forms: what an instruction reads, by the fields of 30_encoding.md R91 and the quirks that
select a source (10_state.md R32). Plain `V[x]`, `V[y]`, `kk`, `nnn`, `n` are used as they are (R93). -/

namespace Sys2Proof.Machine

/-- The source of SHR and SHL: `V[y]`, or `V[x]` in place when `Q.LSQ` = 1 (R168, R170). -/
def shiftSource (s : State) (x y : Nibble) : Byte := if s.q.lsq then s.reg x else s.reg y

/-- The offset register of `Bnnn`: `V[0]`, or the one named by the high nibble of `nnn` when `Q.JMP` = 1 (R124). -/
def jumpRegister (s : State) (nnn : Addr) : Nibble := if s.q.jmp then nnn.extractLsb' 8 4 else 0#4

/-- `V[x][3:0]`: the key slot of SKP and SKNP, the glyph of `Fx29` (R145, R192). -/
def lowNibble (b : Byte) : Nibble := b.extractLsb' 0 4

/-- The address of the cell at offset `k` from the address register; memory reduces it modulo 4096 (R196, R62). -/
def indexedAddr (s : State) (k : Nat) : Nat := s.i.toNat + k

/-- The address of the glyph of digit `d` (R192). -/
def glyphAddr (d : Nibble) : Word := BitVec.ofNat 16 (Config.fontBase + 5 * d.toNat)

/-- Hundreds, tens and ones of a byte, the order `Fx33` stores them in (R193). -/
def decimalDigits (b : Byte) : List Byte :=
  [BitVec.ofNat 8 (b.toNat / 100), BitVec.ofNat 8 (b.toNat / 10 % 10), BitVec.ofNat 8 (b.toNat % 10)]

/-- `V[0]`..`V[x]`, the block that `Fx55` stores (R194). -/
def regBlock (s : State) (x : Nibble) : List Byte :=
  (List.range (x.toNat + 1)).map fun k => s.reg (BitVec.ofNat 4 k)

end Sys2Proof.Machine
end

