-- ==== Sys2Proof/Machine/Flags.lean ====
section
/-! DEFINITION. Every value the flags register VF receives as a side effect (10_state.md R22), and how result and flag are
written (42_alu.md R173, R174). -/

namespace Sys2Proof.Machine

/-- A flag as the byte VF holds. -/
def flagByte (c : Bool) : Byte := if c then 1#8 else 0#8

/-- "Carry is 'would the unsigned sum exceed 255'" (R172). -/
def carryFlag (a b : Byte) : Byte := flagByte (decide (255 < a.toNat + b.toNat))

/-- The inverted borrow of `a - b`: "1 = no borrow occurred" (R172). -/
def noBorrowFlag (a b : Byte) : Byte := flagByte (decide (b.toNat ≤ a.toNat))

/-- The bit a right shift puts out (R168). -/
def shrFlag (a : Byte) : Byte := flagByte (a.getLsbD 0)

/-- The bit a left shift puts out (R170). -/
def shlFlag (a : Byte) : Byte := flagByte (a.getLsbD 7)

/-- `write_rf(x, r, f)` of R173. For `x` = 15 the final VF is the parameter `XF_ORDER`; `Q.CRY` has no part in it (D10). -/
def State.writeRF (s : State) (x : Nibble) (r f : Byte) : State :=
  if x = vf then
    match s.xfOrder with
    | .flagLast => s.setReg vf f
    | .resultLast => s.setReg vf r
  else (s.setReg x r).setReg vf f

/-- The result write of OR, AND and XOR, after which the VIP quirk forces VF to 0 (R174). -/
def State.writeLogic (s : State) (x : Nibble) (r : Byte) : State :=
  if s.q.vip then (s.setReg x r).setReg vf 0#8 else s.setReg x r

end Sys2Proof.Machine
end

