-- ==== Sys2Proof/Machine/Alu.lean ====
section
/-! DEFINITION. Register loads, arithmetic, logic, shifts and random (42_alu.md), "8-bit unsigned modulo 256" (R172). -/

namespace Sys2Proof.Machine

/-- R160 -/
def execLdImm (x : Nibble) (kk : Byte) (s : State) : Result := .next (s.setReg x kk)

/-- R161: VF is not written (D11). -/
def execAddImm (x : Nibble) (kk : Byte) (s : State) : Result := .next (s.setReg x (s.reg x + kk))

/-- R162 -/
def execLdReg (x y : Nibble) (s : State) : Result := .next (s.setReg x (s.reg y))

/-- R163 -/
def execOrReg (x y : Nibble) (s : State) : Result := .next (s.writeLogic x (s.reg x ||| s.reg y))

/-- R164 -/
def execAndReg (x y : Nibble) (s : State) : Result := .next (s.writeLogic x (s.reg x &&& s.reg y))

/-- R165 -/
def execXorReg (x y : Nibble) (s : State) : Result := .next (s.writeLogic x (s.reg x ^^^ s.reg y))

/-- R166 -/
def execAddReg (x y : Nibble) (s : State) : Result :=
  .next (s.writeRF x (s.reg x + s.reg y) (carryFlag (s.reg x) (s.reg y)))

/-- R167 -/
def execSub (x y : Nibble) (s : State) : Result :=
  .next (s.writeRF x (s.reg x - s.reg y) (noBorrowFlag (s.reg x) (s.reg y)))

/-- R169 -/
def execSubn (x y : Nibble) (s : State) : Result :=
  .next (s.writeRF x (s.reg y - s.reg x) (noBorrowFlag (s.reg y) (s.reg x)))

/-- R168 -/
def execShr (x y : Nibble) (s : State) : Result :=
  .next (s.writeRF x (shiftSource s x y >>> 1) (shrFlag (shiftSource s x y)))

/-- R170 -/
def execShl (x y : Nibble) (s : State) : Result :=
  .next (s.writeRF x (shiftSource s x y <<< 1) (shlFlag (shiftSource s x y)))

/-- R171: the draw under the mask `kk`. -/
def execRnd (x : Nibble) (kk : Byte) (s : State) : Result := .next (s.askedRnd.setReg x (s.rndAnswer &&& kk))

end Sys2Proof.Machine
end

