-- ==== Sys2Proof/Machine/Draw.lean ====
section
/-! DEFINITION. Clear and sprite draw (44_display.md). -/

namespace Sys2Proof.Machine

/-- R210 -/
def execCls (s : State) : Result := .next (s.setDisplay Display.blank)

/-- One column of a sprite row `b` at row `r`, left edge `x0` (R211): bit `7 - col` set flips its cell, and is a collision
where the cell was 1. The pair is the buffer and "VF is 1". -/
def drawBit (b : Byte) (r x0 : Nat) (acc : Display × Bool) (col : Nat) : Display × Bool :=
  if b.getLsbD (7 - col) then (Display.flip acc.1 r (x0 + col), acc.2 || Display.get acc.1 r (x0 + col)) else acc

/-- One sprite row: `for col = 0 .. 7 (ascending)` (R211). -/
def drawRow (b : Byte) (r x0 : Nat) (acc : Display × Bool) : Display × Bool :=
  (List.range 8).foldl (drawBit b r x0) acc

/-- `for row = 0 .. n-1 (ascending)` from the sprite bytes at `i0` (R211). -/
def drawSprite (m : Memory) (i0 x0 y0 n : Nat) (d : Display) : Display × Bool :=
  (List.range n).foldl (fun acc row => drawRow (m.read (i0 + row)) (y0 + row) x0 acc) (d, false)

/-- R211: the coordinates and `I` are sampled before VF is reset (D17); `n` = 0 draws nothing and still writes VF and
`render_pending` (D18). -/
def execDrw (x y n : Nibble) (s : State) : Result :=
  let drawn := drawSprite s.mem (indexedAddr s 0) (s.reg x).toNat (s.reg y).toNat n.toNat s.disp
  .next ((s.setReg vf (flagByte drawn.2)).setDisplay drawn.1)

end Sys2Proof.Machine
end

