-- ==== Sys2Proof/WellFormed.lean ====
section
/-! DEFINITION. Which instruction terms have an encoding of their own (30_encoding.md R98, R101). -/

namespace Sys2Proof

/-- SYS owns every word of family 0 except `00E0` and `00EE`, "the two exact matches" that are CLS and RET (R98); the field
types leave no other term without an encoding. -/
def Instr.wellFormed : Instr → Bool
  | .sys nnn => nnn != 0x0E0#12 && nnn != 0x0EE#12
  | _ => true

end Sys2Proof
end

