-- ==== Sys2Proof/Decode.lean ====
section
/-! DEFINITION. The decoder (30_encoding.md R98), total on any bytes and rejecting by name (R100), and after it the
encoder (R92, R99). The quirk flags are no argument of either: they never change decoding (R90). -/

namespace Sys2Proof

/-! ## Fields (R91) -/

def opField (w : Word) : Nibble := w.extractLsb' 12 4
def xField (w : Word) : Nibble := w.extractLsb' 8 4
def yField (w : Word) : Nibble := w.extractLsb' 4 4
def nField (w : Word) : Nibble := w.extractLsb' 0 4
def kkField (w : Word) : Byte := w.extractLsb' 0 8
def nnnField (w : Word) : Addr := w.extractLsb' 0 12

/-- Why bytes decode to no instruction: an illegal word of one of the five families of R100, or fewer than two bytes. -/
inductive Reject where
  /-- `5xyN` with `N != 0` -/
  | illegal5 (w : Word)
  /-- `8xyN` with `N` in 8, 9, A, B, C, D, F -/
  | illegal8 (w : Word)
  /-- `9xyN` with `N != 0` -/
  | illegal9 (w : Word)
  /-- `Exkk` with `kk` neither 9E nor A1 -/
  | illegalE (w : Word)
  /-- `Fxkk` with `kk` none of the nine sub-opcodes -/
  | illegalF (w : Word)
  /-- an instruction is two bytes (R90) -/
  | truncated
deriving DecidableEq, Repr

/-- Family 8 by its last nibble (R98). -/
def decode8 (w : Word) : Except Reject Instr :=
  match (nField w).toNat with
  | 0x0 => .ok (.ldReg (xField w) (yField w))
  | 0x1 => .ok (.orReg (xField w) (yField w))
  | 0x2 => .ok (.andReg (xField w) (yField w))
  | 0x3 => .ok (.xorReg (xField w) (yField w))
  | 0x4 => .ok (.addReg (xField w) (yField w))
  | 0x5 => .ok (.sub (xField w) (yField w))
  | 0x6 => .ok (.shr (xField w) (yField w))
  | 0x7 => .ok (.subn (xField w) (yField w))
  | 0xE => .ok (.shl (xField w) (yField w))
  | _ => .error (.illegal8 w)

/-- Family E by its low byte (R98). -/
def decodeE (w : Word) : Except Reject Instr :=
  if kkField w = 0x9E#8 then .ok (.skp (xField w))
  else if kkField w = 0xA1#8 then .ok (.sknp (xField w))
  else .error (.illegalE w)

/-- Family F by its low byte (R98). -/
def decodeF (w : Word) : Except Reject Instr :=
  if kkField w = 0x07#8 then .ok (.ldVxDT (xField w))
  else if kkField w = 0x0A#8 then .ok (.ldVxK (xField w))
  else if kkField w = 0x15#8 then .ok (.ldDTVx (xField w))
  else if kkField w = 0x18#8 then .ok (.ldSTVx (xField w))
  else if kkField w = 0x1E#8 then .ok (.addI (xField w))
  else if kkField w = 0x29#8 then .ok (.ldF (xField w))
  else if kkField w = 0x33#8 then .ok (.ldB (xField w))
  else if kkField w = 0x55#8 then .ok (.storeRegs (xField w))
  else if kkField w = 0x65#8 then .ok (.loadRegs (xField w))
  else .error (.illegalF w)

/-- The decode algorithm of R98. The two exact matches come first, "because their words also lie in the range of SYS". -/
def decodeWord (w : Word) : Except Reject Instr :=
  if w = 0x00E0#16 then .ok .cls
  else if w = 0x00EE#16 then .ok .ret
  else match (opField w).toNat with
  | 0x0 => .ok (.sys (nnnField w))
  | 0x1 => .ok (.jp (nnnField w))
  | 0x2 => .ok (.call (nnnField w))
  | 0x3 => .ok (.seImm (xField w) (kkField w))
  | 0x4 => .ok (.sneImm (xField w) (kkField w))
  | 0x5 => if nField w = 0#4 then .ok (.seReg (xField w) (yField w)) else .error (.illegal5 w)
  | 0x6 => .ok (.ldImm (xField w) (kkField w))
  | 0x7 => .ok (.addImm (xField w) (kkField w))
  | 0x8 => decode8 w
  | 0x9 => if nField w = 0#4 then .ok (.sneReg (xField w) (yField w)) else .error (.illegal9 w)
  | 0xA => .ok (.ldI (nnnField w))
  | 0xB => .ok (.jpV0 (nnnField w))
  | 0xC => .ok (.rnd (xField w) (kkField w))
  | 0xD => .ok (.drw (xField w) (yField w) (nField w))
  | 0xE => decodeE w
  | _ => decodeF w

/-- Two bytes as a word, the byte at the lower address first: big-endian (20_memory.md R64). -/
def wordOfBytes (hi lo : Byte) : Word := hi ++ lo
/-- `w[15:8]` (R64). -/
def hiByte (w : Word) : Byte := w.extractLsb' 8 8
/-- `w[7:0]` (R64). -/
def loByte (w : Word) : Byte := w.extractLsb' 0 8

/-- The instruction at the head of a byte sequence and the bytes after it. -/
def decode : List Byte → Except Reject (Instr × List Byte)
  | hi :: lo :: rest =>
    match decodeWord (wordOfBytes hi lo) with
    | .ok i => .ok (i, rest)
    | .error e => .error e
  | _ => .error .truncated

/-- The word of an instruction, laid out by the formats of R92 from the patterns of R99. -/
def encode : Instr → Word
  | .sys nnn => 0x0#4 ++ nnn
  | .cls => 0x00E0#16
  | .ret => 0x00EE#16
  | .jp nnn => 0x1#4 ++ nnn
  | .call nnn => 0x2#4 ++ nnn
  | .seImm x kk => 0x3#4 ++ x ++ kk
  | .sneImm x kk => 0x4#4 ++ x ++ kk
  | .seReg x y => 0x5#4 ++ x ++ y ++ 0x0#4
  | .ldImm x kk => 0x6#4 ++ x ++ kk
  | .addImm x kk => 0x7#4 ++ x ++ kk
  | .ldReg x y => 0x8#4 ++ x ++ y ++ 0x0#4
  | .orReg x y => 0x8#4 ++ x ++ y ++ 0x1#4
  | .andReg x y => 0x8#4 ++ x ++ y ++ 0x2#4
  | .xorReg x y => 0x8#4 ++ x ++ y ++ 0x3#4
  | .addReg x y => 0x8#4 ++ x ++ y ++ 0x4#4
  | .sub x y => 0x8#4 ++ x ++ y ++ 0x5#4
  | .shr x y => 0x8#4 ++ x ++ y ++ 0x6#4
  | .subn x y => 0x8#4 ++ x ++ y ++ 0x7#4
  | .shl x y => 0x8#4 ++ x ++ y ++ 0xE#4
  | .sneReg x y => 0x9#4 ++ x ++ y ++ 0x0#4
  | .ldI nnn => 0xA#4 ++ nnn
  | .jpV0 nnn => 0xB#4 ++ nnn
  | .rnd x kk => 0xC#4 ++ x ++ kk
  | .drw x y n => 0xD#4 ++ x ++ y ++ n
  | .skp x => 0xE#4 ++ x ++ 0x9E#8
  | .sknp x => 0xE#4 ++ x ++ 0xA1#8
  | .ldVxDT x => 0xF#4 ++ x ++ 0x07#8
  | .ldVxK x => 0xF#4 ++ x ++ 0x0A#8
  | .ldDTVx x => 0xF#4 ++ x ++ 0x15#8
  | .ldSTVx x => 0xF#4 ++ x ++ 0x18#8
  | .addI x => 0xF#4 ++ x ++ 0x1E#8
  | .ldF x => 0xF#4 ++ x ++ 0x29#8
  | .ldB x => 0xF#4 ++ x ++ 0x33#8
  | .storeRegs x => 0xF#4 ++ x ++ 0x55#8
  | .loadRegs x => 0xF#4 ++ x ++ 0x65#8

/-- The two bytes of an instruction as memory holds them (R64). -/
def encodeBytes (i : Instr) : List Byte := [hiByte (encode i), loByte (encode i)]

/-- A word as spec/opcode_table.json numbers its bits: one 16-bit word, every bit from `nbits` on being 0. -/
def tableWord (nbits w : Nat) : Word := BitVec.ofNat 16 (w % 2 ^ nbits)

/-- What the decoder reads from the bytes of a table word, laid out as R64 stores them. -/
def decodeTableWord (nbits w : Nat) : Option Instr :=
  match decode [hiByte (tableWord nbits w), loByte (tableWord nbits w)] with
  | .ok (i, _) => some i
  | .error _ => none

end Sys2Proof
end

