-- ==== Sys2Proof/Machine/Flow.lean ====
section
/-! DEFINITION. Machine call, jumps, calls and returns (40_flow.md). `pc` already holds the address of the instruction plus 2
(30_encoding.md R97); no transfer checks its target (R125). -/

namespace Sys2Proof.Machine

/-- R120: "recognized and silently ignored (a documented no-op)". -/
def execSys (_nnn : Addr) (s : State) : Result := .next s

/-- R121: pops the return address; "a no-op (not an error) when the call stack is empty". -/
def execRet (s : State) : Result := .next (if h : 0 < s.sp.val then s.popReturn h else s)

/-- R122 -/
def execJp (nnn : Addr) (s : State) : Result := .next (s.setPc nnn.toWord)

/-- R123: saves `pc` and jumps; with 1792 entries held it takes FatalStackError, reporting its own address and word (R254). -/
def execCall (nnn : Addr) (s : State) : Result :=
  .next (if h : s.sp.val < 1792 then (s.pushReturn s.pc h).setPc nnn.toWord
    else s.halt (.stackError (s.pc - 2#16) (encode (.call nnn))))

/-- R124: `pc <- nnn + V[r]`, not reduced modulo 4096 (D7). -/
def execJpV0 (nnn : Addr) (s : State) : Result :=
  .next (s.setPc (nnn.toWord + (s.reg (jumpRegister s nnn)).toWord))

end Sys2Proof.Machine
end

