-- ==== Sys2Proof/Machine/Index.lean ====
section
/-! DEFINITION. Address register, font address, BCD, block store and load (43_index_memory.md). -/

namespace Sys2Proof.Machine

/-- R190 -/
def execLdI (nnn : Addr) (s : State) : Result := .next (s.setI nnn.toWord)

/-- R191: modulo 65536; VF is not written (D11). -/
def execAddI (x : Nibble) (s : State) : Result := .next (s.setI (s.i + (s.reg x).toWord))

/-- R192: only the low 4 bits of `V[x]` are used (D12). -/
def execLdF (x : Nibble) (s : State) : Result := .next (s.setI (glyphAddr (lowNibble (s.reg x))))

/-- R193: `I` is not changed, under either setting of STQ. -/
def execLdB (x : Nibble) (s : State) : Result :=
  .next (s.setMem (s.mem.writeBytes (indexedAddr s 0) (decimalDigits (s.reg x))))

/-- The auto-increment of `Fx55` and `Fx65` "after completion", absent under the STQ quirk (R194). -/
def State.advanceIndex (s : State) (x : Nibble) : State :=
  if s.q.stq then s else s.setI (s.i + BitVec.ofNat 16 (x.toNat + 1))

/-- R194 -/
def execStoreRegs (x : Nibble) (s : State) : Result :=
  .next ((s.setMem (s.mem.writeBytes (indexedAddr s 0) (regBlock s x))).advanceIndex x)

/-- `for i = 0 .. x: V[i] <- MemRead(I + i, 1)` (R195). -/
def State.loadBlock (s : State) (x : Nibble) : State :=
  (List.range (x.toNat + 1)).foldl (fun t k => t.setReg (BitVec.ofNat 4 k) (s.readMem (indexedAddr s k))) s

/-- R195 -/
def execLoadRegs (x : Nibble) (s : State) : Result := .next ((s.loadBlock x).advanceIndex x)

end Sys2Proof.Machine
end

