-- ==== Sys2Proof/Machine/Skip.lean ====
section
/-! DEFINITION. The conditional skips (41_skip.md): each sets `skip_pending` when its condition holds and never writes `pc`
(R140). -/

namespace Sys2Proof.Machine

/-- R141 -/
def execSeImm (x : Nibble) (kk : Byte) (s : State) : Result := .next (s.skipIf (s.reg x == kk))

/-- R142 -/
def execSneImm (x : Nibble) (kk : Byte) (s : State) : Result := .next (s.skipIf (s.reg x != kk))

/-- R143 -/
def execSeReg (x y : Nibble) (s : State) : Result := .next (s.skipIf (s.reg x == s.reg y))

/-- R144 -/
def execSneReg (x y : Nibble) (s : State) : Result := .next (s.skipIf (s.reg x != s.reg y))

/-- R145: only the low 4 bits of `V[x]` select the slot (D13). -/
def execSkp (x : Nibble) (s : State) : Result := .next (s.skipIf (s.pressed (lowNibble (s.reg x))))

/-- R146 -/
def execSknp (x : Nibble) (s : State) : Result := .next (s.skipIf (!s.pressed (lowNibble (s.reg x))))

end Sys2Proof.Machine
end

