-- ==== Sys2Proof/Machine/TimersKeys.lean ====
section
/-! DEFINITION. Timer access and wait for key (45_timers_keys.md). -/

namespace Sys2Proof.Machine

/-- R230 -/
def execLdVxDT (x : Nibble) (s : State) : Result := .next (s.setReg x s.dt)

/-- R231 -/
def execLdDTVx (x : Nibble) (s : State) : Result := .next (s.setDT (s.reg x))

/-- R232 -/
def execLdSTVx (x : Nibble) (s : State) : Result := .next (s.setST (s.reg x))

/-- R233: renders unconditionally, clears the hold state and both timers, then reads until a recognised key or ESC; the
first read belongs to this step, each retry to a step of its own (log 7). -/
def execLdVxK (x : Nibble) (s : State) : Result := .next (s.emitFrame.clearKeysAndTimers.readKey x)

end Sys2Proof.Machine
end

