-- ==== Sys2Proof/Machine/Fetch.lean ====
section
/-! DEFINITION. Where and how an instruction's bytes are fetched (30_encoding.md R94 to R97), and placing one there. -/

namespace Sys2Proof.Machine

/-- The bounds check of R96: a fetch is legal only at `0x200 <= pc < 0x1000`. -/
def inWindow (pc : Word) : Bool := decide (0x200 ≤ pc.toNat) && decide (pc.toNat < 0x1000)

/-- The two bytes at `a`, the second address reduced by R62 like the first (R67, R97). -/
def fetchBytes (m : Memory) (a : Word) : List Byte := [m.read a.toNat, m.read (a.toNat + 1)]

/-- The instruction word at `a`, big-endian (R64). -/
def fetchWord (m : Memory) (a : Word) : Word := wordOfBytes (m.read a.toNat) (m.read (a.toNat + 1))

/-- The address the next cycle fetches at: `pc` after a pending skip (R94 steps 1 to 3). -/
def State.fetchAddr (s : State) : Word := s.consumeSkip.pc

/-- The word stored where the next cycle fetches; a frame end that is due or a key wait in progress is put aside, so
that the next step is that cycle (log 17). -/
def State.storeAtFetch (s : State) (w : Word) : State :=
  { s with
    mem := s.mem.writeBytes s.fetchAddr.toNat [hiByte w, loByte w]
    cyc := if s.cyc < s.cpf then s.cyc else 0
    keyWait := none }

end Sys2Proof.Machine
end

