-- ==== Sys2Proof/Machine/Frame.lean ====
section
/-! DEFINITION. The frame end of the scheduler (60_exceptions.md R263, R265 to R270): render, timers, key aging, key poll,
idle. -/

namespace Sys2Proof.Machine

/-- R265: the buffer is exposed only if a render is pending. -/
def State.renderStep (s : State) : State := if s.renderPending then s.emitFrame else s

/-- "Decrements both timers by at most 1 (never below 0)" (R266). -/
def countDown (b : Byte) : Byte := if b = 0#8 then 0#8 else b - 1#8

/-- R266 -/
def State.timerStep (s : State) : State := (s.setDT (countDown s.dt)).setST (countDown s.st)

/-- Sixteen slots, each nonzero one decremented by 1 (subtraction of naturals leaves a 0 as it is). -/
def decayKeys (key : Vector Nat 16) : Vector Nat 16 := ⟨(key.toList.map fun n => n - 1).toArray, by simp⟩

/-- R267: "every nonzero slot is decremented by 1 once". -/
def State.agingStep (s : State) : State := { s with key := decayKeys s.key }

/-- R268: exactly one raw key read. -/
def State.pollStep (s : State) : State :=
  match s.pollAnswer with
  | some (.key k) => s.askedPoll.setKeySlot (keyIndex k) s.keyHold
  | some .esc => s.askedPoll.exit
  | some (.other _) => s.askedPoll
  | none => s.askedPoll

/-- R270: `idle_count` iterations of a loop that "changes no state". -/
def State.idleStep (s : State) : State := s

/-- After the poll: the idle step and `cyc <- 0`, if the machine still runs (R275). -/
def State.endFrame (s : State) : State :=
  match s.status with
  | .running => { s.idleStep with cyc := 0 }
  | _ => s

/-- Steps 2 to 6 of R263 in order: aging precedes the poll (C7). -/
def State.frameEnd (s : State) : State := s.renderStep.timerStep.agingStep.pollStep.endFrame

end Sys2Proof.Machine
end

