-- ==== Sys2Proof/Machine/Cycle.lean ====
section
/-! DEFINITION. One cycle of the CPU core (30_encoding.md R94), the scheduler's choice between a cycle and a frame end
(60_exceptions.md R275), and the host's cancellation. -/

namespace Sys2Proof.Machine

/-- What the scheduler does with an executed instruction: it counts the cycle (R264, R275). -/
def counted (r : Result) : Result :=
  match r with
  | .next s => .next s.countCycle
  | .fault f => .fault f
  | .refused f => .refused f

/-- The cycle from the bounds check on, the skip already consumed (R94 steps 2 to 5). The decode error reports the address
and the word, with `pc` advanced (R251); the bounds error reports `pc`, nothing being fetched (R252). -/
def State.fetchAndExecute (s : State) : Result :=
  if inWindow s.pc then
    match decode (fetchBytes s.mem s.pc) with
    | .ok (i, _) => exec i (s.setPc (s.pc + 2#16))
    | .error _ => .next ((s.setPc (s.pc + 2#16)).halt (.decodeError s.pc (fetchWord s.mem s.pc)))
  else .next (s.halt (.boundsError s.pc))

/-- `cycle()` of R94, counted. -/
def State.cycle (s : State) : Result := counted s.consumeSkip.fetchAndExecute

/-- A step of a running machine with `CPF >= 1`: the next raw read of a key wait in progress (log 7), else a cycle while
`cyc < CPF`, else the frame end (R264, R275). -/
def State.schedule (s : State) : Result :=
  match s.keyWait with
  | some x => counted (.next (s.readKey x))
  | none => if s.cyc < s.cpf then s.cycle else .next s.frameEnd

/-- "requires status = Running" (R275): Halted and Exited are final (R10). -/
def State.whenRunning (s : State) (r : Result) : Result :=
  match s.status with
  | .running => r
  | .halted _ => .fault .machineHalted
  | .exited => .fault .machineExited

/-- `step()` of R275; `CPF` = 0 is outside the contract (R33). -/
def State.machineStep (s : State) : Result :=
  s.whenRunning (if s.cpf = 0 then .refused .clockFactorZero else s.schedule)

/-- The host's move `cancel: status <- Exited`, enabled at every step boundary of a running machine (R260 (c), R275; log 8). -/
def State.cancel (s : State) : Result := s.whenRunning (.next s.exit)

end Sys2Proof.Machine
end

