-- ==== Sys2Proof/Machine/Step.lean ====
section
/-! DEFINITION. The step function of the machine (60_exceptions.md R275) and the placing of a fetch word. -/

namespace Sys2Proof.Machine

def step (s : State) : Host.Outcome State Fault Refusal := s.machineStep

/-- `s` with the table word `w` stored where the next cycle fetches (log 17). -/
def State.withFetchWord (s : State) (nbits w : Nat) : State := s.storeAtFetch (tableWord nbits w)

end Sys2Proof.Machine
end

