-- ==== Sys2Proof/Machine/Reset.lean ====
section
/-! DEFINITION. The reset sequence (70_reset_and_hazards.md R300 to R306), of which `State.reset` is one outcome (log 9). -/

namespace Sys2Proof.Machine

/-- The configuration inputs latched at reset (R304), the open parameters of the machine, and the answers the host has
ready. -/
structure BootConfig where
  q : Quirks := {}
  cpf : Nat := Config.defaultCpf
  xfOrder : XfOrder := .flagLast
  keyHold : Nat := Config.keyHold
  host : HostPort := {}
deriving DecidableEq, Repr

/-- The program load: the first 3584 bytes, verbatim from 0x200 (R302). The font is what the unlisted cells
0x080..0x0CF read as (R301, log 4). -/
def loadProgram (image : List Byte) : Memory :=
  Memory.writeBytes [] Config.progBase (image.take Config.progMax)

/-- Steps 2 to 8 of R300, the calibrator having answered `idle`. -/
def booted (cfg : BootConfig) (image : List Byte) (idle : Nat) : State :=
  { State.zeroed with
    q := cfg.q
    cpf := cfg.cpf
    xfOrder := cfg.xfOrder
    keyHold := cfg.keyHold
    host := cfg.host
    mem := loadProgram image
    pc := BitVec.ofNat 16 Config.progBase
    idleCount := idle }

/-- `reset(...)` of R300 for the program image `prog` and the host's clock readings: an absent or empty image is
FatalLoadError before anything else (R303; what the state holds then, the font included, is the model's choice, log 18), `CPF` = 0 is refused (R33), and so is `KEY_HOLD` = 0, which R6 excludes (log 19: the
model's choice). -/
def resetSequence (cfg : BootConfig) (prog : Option (List Byte)) (fallback : Bool) (readings : List (Nat × Nat)) : Result :=
  match prog with
  | none => .next { State.zeroed with status := .halted .loadError }
  | some [] => .next { State.zeroed with status := .halted .loadError }
  | some (b :: bs) =>
    if cfg.cpf = 0 then .refused .clockFactorZero
    else if cfg.keyHold = 0 then .refused .keyHoldZero
    else match calibrate Config.calN0 Config.calGrow Config.calOverhead cfg.cpf fallback readings with
    | none => .fault .calibrationUnfinished
    | some idle => .next (booted cfg (b :: bs) idle)

end Sys2Proof.Machine
end

