-- ==== Sys2Proof/Safety.lean ====
section
/-! DEFINITION. What claims are stated in: what each instruction may write by the spec's own lists, the invariant of a
running machine, the moves of a run, and what a safe state is. -/

namespace Sys2Proof

/-- The registers an instruction names as destination: its `x` field, or `V[0]`..`V[x]` for `Fx65` (R21, R195). -/
def Instr.hasDestination (r : Nibble) : Instr → Bool
  | .ldImm x _ | .addImm x _ | .ldReg x _ | .orReg x _ | .andReg x _ | .xorReg x _ | .addReg x _ | .sub x _ | .shr x _
  | .subn x _ | .shl x _ | .rnd x _ | .ldVxDT x | .ldVxK x => r == x
  | .loadRegs x => decide (r.toNat ≤ x.toNat)
  | .sys _ | .cls | .ret | .jp _ | .call _ | .seImm _ _ | .sneImm _ _ | .seReg _ _ | .sneReg _ _ | .ldI _ | .jpV0 _
  | .drw _ _ _ | .skp _ | .sknp _ | .ldDTVx _ | .ldSTVx _ | .addI _ | .ldF _ | .ldB _ | .storeRegs _ => false

/-- "The complete list of instructions that write VF without naming it as their destination" (R22). -/
def Instr.writesVF (q : Machine.Quirks) : Instr → Bool
  | .orReg _ _ | .andReg _ _ | .xorReg _ _ => q.vip
  | .addReg _ _ | .sub _ _ | .shr _ _ | .subn _ _ | .shl _ _ | .drw _ _ _ => true
  | .sys _ | .cls | .ret | .jp _ | .call _ | .seImm _ _ | .sneImm _ _ | .seReg _ _ | .ldImm _ _ | .addImm _ _ | .ldReg _ _
  | .sneReg _ _ | .ldI _ | .jpV0 _ | .rnd _ _ | .skp _ | .sknp _ | .ldVxDT _ | .ldVxK _ | .ldDTVx _ | .ldSTVx _ | .addI _
  | .ldF _ | .ldB _ | .storeRegs _ | .loadRegs _ => false

/-- The instructions that write `pc` (R25 (c)). -/
def Instr.transfers : Instr → Bool
  | .ret | .jp _ | .call _ | .jpV0 _ => true
  | .sys _ | .cls | .seImm _ _ | .sneImm _ _ | .seReg _ _ | .ldImm _ _ | .addImm _ _ | .ldReg _ _ | .orReg _ _ | .andReg _ _
  | .xorReg _ _ | .addReg _ _ | .sub _ _ | .shr _ _ | .subn _ _ | .shl _ _ | .sneReg _ _ | .ldI _ | .rnd _ _ | .drw _ _ _
  | .skp _ | .sknp _ | .ldVxDT _ | .ldVxK _ | .ldDTVx _ | .ldSTVx _ | .addI _ | .ldF _ | .ldB _ | .storeRegs _
  | .loadRegs _ => false

/-- The conditional skips (R140). -/
def Instr.skips : Instr → Bool
  | .seImm _ _ | .sneImm _ _ | .seReg _ _ | .sneReg _ _ | .skp _ | .sknp _ => true
  | .sys _ | .cls | .ret | .jp _ | .call _ | .ldImm _ _ | .addImm _ _ | .ldReg _ _ | .orReg _ _ | .andReg _ _ | .xorReg _ _
  | .addReg _ _ | .sub _ _ | .shr _ _ | .subn _ _ | .shl _ _ | .ldI _ | .jpV0 _ | .rnd _ _ | .drw _ _ _ | .ldVxDT _
  | .ldVxK _ | .ldDTVx _ | .ldSTVx _ | .addI _ | .ldF _ | .ldB _ | .storeRegs _ | .loadRegs _ => false

/-- The illegal words, family by family, exactly the table of R100. -/
def IllegalWord (w : Word) : Prop :=
  (w.toNat / 4096 = 0x5 ∧ w.toNat % 16 ≠ 0) ∨
  (w.toNat / 4096 = 0x8 ∧ w.toNat % 16 ∈ [0x8, 0x9, 0xA, 0xB, 0xC, 0xD, 0xF]) ∨
  (w.toNat / 4096 = 0x9 ∧ w.toNat % 16 ≠ 0) ∨
  (w.toNat / 4096 = 0xE ∧ w.toNat % 256 ∉ [0x9E, 0xA1]) ∨
  (w.toNat / 4096 = 0xF ∧ w.toNat % 256 ∉ [0x07, 0x0A, 0x15, 0x18, 0x1E, 0x29, 0x33, 0x55, 0x65])

namespace Machine

/-- How many bytes an instruction stores, from `I` upwards: three for `Fx33`, `x + 1` for `Fx55`, none else (R63). -/
def storedCount : Instr → Nat
  | .ldB _ => 3
  | .storeRegs x => x.toNat + 1
  | .sys _ | .cls | .ret | .jp _ | .call _ | .seImm _ _ | .sneImm _ _ | .seReg _ _ | .ldImm _ _ | .addImm _ _ | .ldReg _ _
  | .orReg _ _ | .andReg _ _ | .xorReg _ _ | .addReg _ _ | .sub _ _ | .shr _ _ | .subn _ _ | .shl _ _ | .sneReg _ _ | .ldI _
  | .jpV0 _ | .rnd _ _ | .drw _ _ _ | .skp _ | .sknp _ | .ldVxDT _ | .ldVxK _ | .ldDTVx _ | .ldSTVx _ | .addI _ | .ldF _
  | .loadRegs _ => 0

/-- Address `a` names a cell that instruction `i` stores to in state `s`: the cell of `I + k` for some `k` below the
count, both modulo 4096 (R62, R193, R194). -/
def storesTo (i : Instr) (s : State) (a : Nat) : Prop :=
  ∃ k < storedCount i, a % Config.memSize = indexedAddr s k % Config.memSize

/-- The sprite bit of `Dxyn` in state `s` that falls on the display cell `(r, c)`, said without a loop: the cell lies
`dr` rows below the top edge and `dc` columns right of the left edge, both axes wrapping (R211). -/
def spriteBit (s : State) (x y n : Nibble) (r c : Nat) : Bool :=
  let dr := (r + 32 - (s.reg y).toNat % 32) % 32
  let dc := (c + 64 - (s.reg x).toNat % 64) % 64
  decide (dr < n.toNat) && decide (dc < 8) && (s.readMem (indexedAddr s dr)).getLsbD (7 - dc)

/-- A step may begin a cycle: the machine runs, `CPF` is in its contract, no key wait is open and the frame's batch is
not full (R264, R275). -/
def State.CycleDue (s : State) : Prop := s.status = .running ∧ 0 < s.cpf ∧ s.keyWait = none ∧ s.cyc < s.cpf

/-- A step is the frame end: the same, with the batch full (R264, R275). -/
def State.FrameEndDue (s : State) : Prop := s.status = .running ∧ 0 < s.cpf ∧ s.keyWait = none ∧ s.cpf ≤ s.cyc

/-- The invariant of a machine that has been booted with `CPF >= 1` and `KEY_HOLD >= 1` (R40, with what R24, R26, R34 and
R233 say of `pc`, the stack and the wait). -/
structure State.Inv (s : State) : Prop where
  /-- the memory list is canonical -/
  memory : s.mem.wf
  /-- "every `key[k]` is in 0..`KEY_HOLD`" (R40) -/
  keys : ∀ k : Nibble, s.keySlot k ≤ s.keyHold
  hold : 1 ≤ s.keyHold
  clock : 1 ≤ s.cpf
  /-- "`0 <= cyc <= CPF`" (R40) -/
  cycles : s.cyc ≤ s.cpf
  /-- "0x10FE, the greatest value `pc` ever holds" (R124) -/
  counter : s.pc.toNat ≤ 0x10FE
  /-- a skip is pending only right after a fetch from the window -/
  skip : s.skipPending = true → s.pc.toNat ≤ 0x1001
  /-- every entry held is the address of an instruction of the window plus 2 (R121, R123) -/
  returns : ∀ j : Nat, ∀ h : j < s.sp.val,
    0x202 ≤ (s.stack[j]'(by have := s.sp.isLt; omega)).toNat ∧ (s.stack[j]'(by have := s.sp.isLt; omega)).toNat ≤ 0x1001
  /-- inside an `Fx0A` the keypad, both timers, the render flag and the skip flag are 0 and its cycle is not yet counted
  (R233) -/
  waiting : s.keyWait.isSome = true →
    s.status = .running ∧ s.skipPending = false ∧ s.dt = 0#8 ∧ s.st = 0#8 ∧ s.renderPending = false ∧
      (∀ k : Nibble, s.keySlot k = 0) ∧ s.cyc < s.cpf

/-- The moves of a run at a step boundary (R275). -/
inductive Move where
  | step
  | cancel
deriving DecidableEq, Repr

def State.move (s : State) : Move → Result
  | .step => Machine.step s
  | .cancel => s.cancel

/-- `s` leads to `t` by moves that each answer a next state. -/
inductive Reaches (s : State) : State → Prop where
  | refl : Reaches s s
  | move {t u : State} (m : Move) (before : Reaches s t) (h : t.move m = .next u) : Reaches s u

/-- A machine right after a reset sequence that ended in Running, whatever its configuration, program and clock (R300). -/
def State.Booted (s : State) : Prop :=
  ∃ (cfg : BootConfig) (prog : Option (List Byte)) (fallback : Bool) (readings : List (Nat × Nat)),
    resetSequence cfg prog fallback readings = .next s ∧ s.status = .running

/-- A step from `s` executes the instruction `i`: a cycle is due, it fetches inside the window, and the two bytes there
decode to `i` (R94). -/
def State.Executes (s : State) (i : Instr) : Prop :=
  s.CycleDue ∧ inWindow s.fetchAddr = true ∧ ∃ rest, decode (fetchBytes s.mem s.fetchAddr) = .ok (i, rest)

/-- `s` leads to `t` by steps with `m` frame ends among them, every instruction executed being one of `allowed` and every
frame-end poll answering one of `polled`. -/
inductive Run (allowed : Instr → Prop) (polled : KeyAnswer → Prop) (s : State) : Nat → State → Prop where
  | start : Run allowed polled s 0 s
  | cycle {m : Nat} {t u : State} (before : Run allowed polled s m t) (due : t.CycleDue)
      (only : ∀ i, t.Executes i → allowed i) (h : Machine.step t = .next u) : Run allowed polled s m u
  | frameEnd {m : Nat} {t u : State} (before : Run allowed polled s m t) (due : t.FrameEndDue)
      (answer : polled t.pollAnswer) (h : Machine.step t = .next u) : Run allowed polled s (m + 1) u

/-- A safe state: no fatal condition has been taken (R250). -/
def State.Safe (s : State) : Prop := ∀ report : Fatal, s.status ≠ .halted report

end Machine

end Sys2Proof
end

