-- ==== Sys2Proof/Certificates/Slice0/Obligations.lean ====
section
/-! DEFINITION. The statements about the model, for the provers. Each cites the rule or section of spec/ it formalises; where
one rests on a decision of 92_eei_decisions.md or on an entry of the assumption log, its docstring says so. -/

open Sys2Proof Sys2Proof.Machine

/-! ## Encoding (30_encoding.md) -/

/-- R106, whole: the three worked extractions, and that `0123` is a no-op that advances `pc` normally. -/
def Obligations.FieldExtractionExamples : Prop :=
  (wordOfBytes 0xD1#8 0x25#8 = 0xD125#16 ∧ opField 0xD125#16 = 0xD#4 ∧ xField 0xD125#16 = 1#4 ∧ yField 0xD125#16 = 2#4 ∧
    nField 0xD125#16 = 5#4 ∧ kkField 0xD125#16 = 0x25#8 ∧ nnnField 0xD125#16 = 0x125#12 ∧
    decodeWord 0xD125#16 = .ok (.drw 1#4 2#4 5#4)) ∧
  (wordOfBytes 0x01#8 0x23#8 = 0x0123#16 ∧ opField 0x0123#16 = 0#4 ∧ decodeWord 0x0123#16 = .ok (.sys 0x123#12) ∧
    (∀ s, exec (.sys 0x123#12) s = .next s) ∧
    ∃ t, step (State.reset.withFetchWord 16 0x0123) = .next t ∧ t.pc = 0x202#16) ∧
  (wordOfBytes 0x51#8 0x21#8 = 0x5121#16 ∧ opField 0x5121#16 = 5#4 ∧ nField 0x5121#16 = 1#4 ∧
    ∃ e, decodeWord 0x5121#16 = .error e)

/-- Decoding gives every well-formed instruction back from its word (R92, R98, R99). -/
def Obligations.DecodeOfEncodeIsIdentity : Prop :=
  ∀ i : Instr, i.wellFormed = true →
    decodeWord (encode i) = .ok i ∧ ∀ rest, decode (encodeBytes i ++ rest) = .ok (i, rest)

/-- A word that decodes is the word of its instruction, which is well-formed: no two words share one (R98). -/
def Obligations.EncodeOfDecodeIsIdentity : Prop :=
  ∀ (w : Word) (i : Instr), decodeWord w = .ok i → encode i = w ∧ i.wellFormed = true

/-- The words the decoder rejects are exactly those of the table of R100. -/
def Obligations.RejectedWordsAreTheIllegalOnes : Prop :=
  ∀ w : Word, (∃ e, decodeWord w = .error e) ↔ IllegalWord w

/-! ## The cycle (30_encoding.md R94 to R97) and fatal conditions (60_exceptions.md) -/

/-- A step runs the decoded instruction: where a cycle is due and the two bytes at the fetch address decode, the step is
the instruction executed with `pc` advanced past it and the skip consumed, and the cycle counted unless the run has
ended (R94, R97, R275) or a key wait is open (the model's choice, log 7). -/
def Obligations.StepRunsTheDecodedInstruction : Prop :=
  ∀ (s t : State) (a : Word) (i : Instr) (rest : List Byte), s.CycleDue →
    a = (if s.skipPending then s.pc + 2#16 else s.pc) → 0x200 ≤ a.toNat → a.toNat < 0x1000 →
    decode [s.readMem a.toNat, s.readMem (a.toNat + 1)] = .ok (i, rest) →
    exec i { s with pc := a + 2#16, skipPending := false } = .next t →
    step s = .next (if t.status = .running ∧ t.keyWait = none then { t with cyc := t.cyc + 1 } else t)

/-- An instruction placed where the next cycle fetches is the one the next step runs, whatever was due: its two bytes are
the only cells changed (the model's `withFetchWord`, log 17; that a step can leave a key wait open, log 7). -/
def Obligations.PlacedInstructionRuns : Prop :=
  ∀ (s t : State) (a : Word) (i : Instr), s.status = .running → 0 < s.cpf → i.wellFormed = true →
    a = (if s.skipPending then s.pc + 2#16 else s.pc) → 0x200 ≤ a.toNat → a.toNat < 0x1000 →
    exec i { s.withFetchWord 16 (encode i).toNat with pc := a + 2#16, skipPending := false } = .next t →
    step (s.withFetchWord 16 (encode i).toNat) =
      .next (if t.status = .running ∧ t.keyWait = none then { t with cyc := t.cyc + 1 } else t) ∧
    ∀ c, c % 4096 ≠ a.toNat % 4096 → c % 4096 ≠ (a.toNat + 1) % 4096 →
      (s.withFetchWord 16 (encode i).toNat).readMem c = s.readMem c

/-- R95: a pending skip costs no cycle, and the two bypassed bytes are never examined: the step is that of the machine
with `pc` 2 further and no skip pending. -/
def Obligations.PendingSkipAdvancesWithoutACycle : Prop :=
  ∀ s : State, s.CycleDue → s.skipPending = true →
    step s = step { s with pc := s.pc + 2#16, skipPending := false }

/-- R96: outside the window the cycle takes FatalBoundsError with the failing address, whatever memory holds, and `pc` is
not advanced further (that the skip comes first is the spec's own decision D4, the state at the halt D25; log 16). -/
def Obligations.FetchOutsideTheWindowHalts : Prop :=
  ∀ (s : State) (a : Word), s.CycleDue → a = (if s.skipPending then s.pc + 2#16 else s.pc) →
    (a.toNat < 0x200 ∨ 0x1000 ≤ a.toNat) →
    step s = .next { s with pc := a, skipPending := false, status := .halted (.boundsError a) }

/-- R251: an illegal word takes FatalDecodeError in the cycle that fetched it, with `pc` = `a + 2`, reporting `a` and the word;
nothing else changes but the skip consumed (R258; the spec's own decision D25, log 16), and no step follows (R258; that this
is a named fault is log 6). A word bypassed by a taken skip is not the one fetched at `a`. -/
def Obligations.IllegalWordHalts : Prop :=
  ∀ (s : State) (a : Word), s.CycleDue → a = (if s.skipPending then s.pc + 2#16 else s.pc) →
    0x200 ≤ a.toNat → a.toNat < 0x1000 →
    IllegalWord (wordOfBytes (s.readMem a.toNat) (s.readMem (a.toNat + 1))) →
    ∃ t, step s = .next t ∧
      t = { s with
        pc := a + 2#16, skipPending := false,
        status := .halted (.decodeError a (wordOfBytes (s.readMem a.toNat) (s.readMem (a.toNat + 1)))) } ∧
      step t = .fault .machineHalted

/-- Nothing leaves a halt: neither a step nor the host's cancellation is enabled in it (R259). So too for Exited (R10). That a
move there is a named fault is log 6, that the cancellation is a move is log 8, the model's choice. -/
def Obligations.HaltIsFinal : Prop :=
  ∀ (s : State) (m : Move),
    (∀ report, s.status = .halted report → s.move m = .fault .machineHalted) ∧
    (s.status = .exited → s.move m = .fault .machineExited)

/-- The only instructions that end a run are a CALL on a full stack, reporting its own address and word, and a key wait
answered with ESC (R250, R257, R260; the stack fault is the spec's own decision D8). -/
def Obligations.OnlyFullCallAndEscEndTheRun : Prop :=
  ∀ (i : Instr) (s t : State), exec i s = .next t → t.status ≠ s.status →
    (∃ nnn, i = .call nnn ∧ s.sp.val = 1792 ∧
      t.status = .halted (.stackError (s.pc - 2#16) (BitVec.ofNat 16 (0x2000 + nnn.toNat)))) ∨
    (∃ x, i = .ldVxK x ∧ s.waitAnswer = some .esc ∧ t.status = .exited)

/-- The host's cancellation ends a running machine gracefully and touches nothing else but an open key wait (R260 (c), R275;
the spec's own decision D27; that it is a move beside `step` is log 8, that the other components stay as they were is log 20, the
model's choice). -/
def Obligations.CancelExits : Prop :=
  ∀ s : State, s.status = .running → s.move .cancel = .next { s with status := .exited, keyWait := none }

/-! ## Control flow (40_flow.md) -/

/-- R120: the machine call changes nothing, whatever its address field, and its words are 0x0000..0x0FFF except 0x00E0 and
0x00EE. -/
def Obligations.MachineCallIsANoOp : Prop :=
  ∀ nnn : Addr, (∀ s : State, exec (.sys nnn) s = .next s) ∧
    (decodeWord (BitVec.ofNat 16 nnn.toNat) = .ok (.sys nnn) ↔ nnn ≠ 0x0E0#12 ∧ nnn ≠ 0x0EE#12)

/-- R121: RET pops the return address, and does nothing on an empty stack; no entry is erased. -/
def Obligations.ReturnPopsOrDoesNothing : Prop :=
  ∀ s : State,
    (s.sp.val = 0 → exec .ret s = .next s) ∧
    (0 < s.sp.val → ∃ t, exec .ret s = .next t ∧ t.sp.val = s.sp.val - 1 ∧ s.stack[t.sp.val]? = some t.pc ∧
      t = { s with sp := t.sp, pc := t.pc })

/-- R122: JP sets `pc` to its 12-bit target and changes nothing else; a target below 0x200 takes FatalBoundsError in the next
cycle, not at the jump (R125; the spec's own decision D7, the state at the halt D25; log 16). -/
def Obligations.JumpSetsPc : Prop :=
  ∀ (nnn : Addr) (s : State), ∃ t, exec (.jp nnn) s = .next t ∧ t.pc.toNat = nnn.toNat ∧ t = { s with pc := t.pc } ∧
    (nnn.toNat < 0x200 → t.CycleDue → t.skipPending = false →
      step t = .next { t with status := .halted (.boundsError t.pc) })

/-- CALL saves `pc` in the next entry and jumps; with 1792 entries held it takes FatalStackError before anything is
written (R123; the check's place and the fault's name are the spec's own decision D8). -/
def Obligations.CallPushesOrHalts : Prop :=
  ∀ (nnn : Addr) (s : State),
    (s.sp.val < 1792 → ∃ t, exec (.call nnn) s = .next t ∧ t.stack[s.sp.val]? = some s.pc ∧ t.sp.val = s.sp.val + 1 ∧
      t.pc.toNat = nnn.toNat ∧ (∀ j : Nat, j ≠ s.sp.val → t.stack[j]? = s.stack[j]?) ∧
      t = { s with stack := t.stack, sp := t.sp, pc := t.pc }) ∧
    (s.sp.val = 1792 → exec (.call nnn) s =
      .next { s with status := .halted (.stackError (s.pc - 2#16) (BitVec.ofNat 16 (0x2000 + nnn.toNat))) })

/-- `Bnnn` adds `V[0]`, or under JMP the register named by the high nibble of `nnn`, and does not reduce the sum (R124; that
it is not reduced is the spec's own decision D7). -/
def Obligations.JumpWithOffset : Prop :=
  ∀ (nnn : Addr) (s : State), ∃ t, exec (.jpV0 nnn) s = .next t ∧
    t.pc.toNat = nnn.toNat +
      (s.reg (if s.q.jmp then BitVec.ofNat 4 (nnn.toNat / 256) else 0#4)).toNat ∧
    t.pc.toNat ≤ 0x10FE ∧ t = { s with pc := t.pc }

/-! ## Conditional skips (41_skip.md) -/

/-- R141 to R144: the compare skips set `skip_pending` exactly when their condition holds and change nothing else; `5xx0`
always skips and `9xx0` never does (what SE and SNE mean is general knowledge G13). -/
def Obligations.CompareSkips : Prop :=
  ∀ (x y : Nibble) (kk : Byte) (s : State),
    exec (.seImm x kk) s = .next (if s.reg x = kk then { s with skipPending := true } else s) ∧
    exec (.sneImm x kk) s = .next (if s.reg x ≠ kk then { s with skipPending := true } else s) ∧
    exec (.seReg x y) s = .next (if s.reg x = s.reg y then { s with skipPending := true } else s) ∧
    exec (.sneReg x y) s = .next (if s.reg x ≠ s.reg y then { s with skipPending := true } else s)

/-- SKP and SKNP test the slot named by the low 4 bits of `V[x]` and do not change it (R145, R146; the low 4 bits are the
spec's own decision D13). -/
def Obligations.KeySkips : Prop :=
  ∀ (x k : Nibble) (s : State), k.toNat = (s.reg x).toNat % 16 →
    exec (.skp x) s = .next (if 0 < s.keySlot k then { s with skipPending := true } else s) ∧
    exec (.sknp x) s = .next (if s.keySlot k = 0 then { s with skipPending := true } else s)

/-! ## Register instructions (42_alu.md) -/

/-- R160, R162: load immediate and copy write `V[x]` and change nothing else. -/
def Obligations.RegisterLoads : Prop :=
  ∀ (x y : Nibble) (kk : Byte) (s : State),
    (∃ t, exec (.ldImm x kk) s = .next t ∧ t.reg x = kk ∧ (∀ r, r ≠ x → t.reg r = s.reg r) ∧ t = { s with v := t.v }) ∧
    (∃ t, exec (.ldReg x y) s = .next t ∧ t.reg x = s.reg y ∧ (∀ r, r ≠ x → t.reg r = s.reg r) ∧ t = { s with v := t.v })

/-- Add immediate wraps modulo 256 and writes no register but `V[x]` (R161; that VF is not written is the spec's own
decision D11). -/
def Obligations.AddImmediate : Prop :=
  ∀ (x : Nibble) (kk : Byte) (s : State), ∃ t, exec (.addImm x kk) s = .next t ∧
    (t.reg x).toNat = ((s.reg x).toNat + kk.toNat) % 256 ∧ (∀ r, r ≠ x → t.reg r = s.reg r) ∧ t = { s with v := t.v }

/-- R163, R164, R165, R174: the logic operations bit by bit; under VIP, VF ends 0, also as the destination; without it VF
is written only as the destination. -/
def Obligations.LogicOperations : Prop :=
  ∀ (x y : Nibble) (s : State) (i : Instr) (f : Bool → Bool → Bool),
    (i = .orReg x y ∧ f = or ∨ i = .andReg x y ∧ f = and ∨ i = .xorReg x y ∧ f = xor) →
    ∃ t, exec i s = .next t ∧
      (x = 15#4 ∧ s.q.vip = true ∨ ∀ b < 8, (t.reg x).getLsbD b = f ((s.reg x).getLsbD b) ((s.reg y).getLsbD b)) ∧
      (s.q.vip = true → t.reg 15#4 = 0#8) ∧
      (∀ r, r ≠ x → (r ≠ 15#4 ∨ s.q.vip = false) → t.reg r = s.reg r) ∧ t = { s with v := t.v }

/-- R166: add with carry out. For `x` = 15 the final VF is the flag or the sum as the machine's `XF_ORDER` says (R173; the spec's own
decision D9, log 3). -/
def Obligations.AddWithCarry : Prop :=
  ∀ (x y : Nibble) (s : State), ∃ (t : State) (r f : Byte), exec (.addReg x y) s = .next t ∧
    r.toNat = ((s.reg x).toNat + (s.reg y).toNat) % 256 ∧
    f.toNat = (if 255 < (s.reg x).toNat + (s.reg y).toNat then 1 else 0) ∧
    (x ≠ 15#4 → t.reg x = r ∧ t.reg 15#4 = f) ∧
    (x = 15#4 → t.reg 15#4 = if s.xfOrder = .flagLast then f else r) ∧
    (∀ z, z ≠ x → z ≠ 15#4 → t.reg z = s.reg z) ∧ t = { s with v := t.v }

/-- R167, R169: SUB is `V[x] - V[y]`, SUBN `V[y] - V[x]`, modulo 256, and VF is 1 iff no borrow occurred
(the operand order is general knowledge G14). For `x` = 15 the final VF is the flag or the result as the machine's `XF_ORDER`
says (R173; the spec's own decision D9, log 3). -/
def Obligations.SubtractWithInvertedBorrow : Prop :=
  ∀ (x y : Nibble) (s : State) (i : Instr) (a b : Byte),
    (i = .sub x y ∧ a = s.reg x ∧ b = s.reg y ∨ i = .subn x y ∧ a = s.reg y ∧ b = s.reg x) →
    ∃ (t : State) (r f : Byte), exec i s = .next t ∧
      ((r.toNat : Int) = ((a.toNat : Int) - (b.toNat : Int)) % 256) ∧
      f.toNat = (if b.toNat ≤ a.toNat then 1 else 0) ∧
      (x ≠ 15#4 → t.reg x = r ∧ t.reg 15#4 = f) ∧
      (x = 15#4 → t.reg 15#4 = if s.xfOrder = .flagLast then f else r) ∧
      (∀ z, z ≠ x → z ≠ 15#4 → t.reg z = s.reg z) ∧ t = { s with v := t.v }

/-- R168, R170: shifts by one of `V[y]`, or of `V[x]` in place under LSQ; VF gets the bit shifted out. For
`x` = 15 the final VF is the flag or the result as the machine's `XF_ORDER` says (R173; the spec's own decision D9, log 3). -/
def Obligations.ShiftsByOne : Prop :=
  ∀ (x y : Nibble) (s : State) (i : Instr) (src : Byte) (r f : Nat),
    src = (if s.q.lsq then s.reg x else s.reg y) →
    (i = .shr x y ∧ r = src.toNat / 2 ∧ f = src.toNat % 2 ∨ i = .shl x y ∧ r = src.toNat * 2 % 256 ∧ f = src.toNat / 128) →
    ∃ t : State, exec i s = .next t ∧
      (x ≠ 15#4 → (t.reg x).toNat = r ∧ (t.reg 15#4).toNat = f) ∧
      (x = 15#4 → (t.reg 15#4).toNat = if s.xfOrder = .flagLast then f else r) ∧
      (∀ z, z ≠ x → z ≠ 15#4 → t.reg z = s.reg z) ∧ t = { s with v := t.v }

/-- RND writes the draw under the mask; the host's ready answer is used up and never seen again, and the answers to keys are not
touched. The draw is free: nothing is said of it (R171; the mask is general knowledge G8, the free draw decision D14, its place in State log 1). -/
def Obligations.RandomByteUnderMask : Prop :=
  ∀ (x : Nibble) (kk : Byte) (s : State), ∃ (t : State) (d : Byte), exec (.rnd x kk) s = .next t ∧
    (∀ a rest, s.host.rnds = a :: rest → d = a) ∧
    t.host = { s.host with rnds := s.host.rnds.tail, asked := s.host.asked + 1 } ∧
    (∀ b < 8, (t.reg x).getLsbD b = (d.getLsbD b && kk.getLsbD b)) ∧ (kk = 0#8 → t.reg x = 0#8) ∧
    (∀ r, r ≠ x → t.reg r = s.reg r) ∧ t = { s with v := t.v, host := t.host }

/-! ## Address register and memory (43_index_memory.md, 20_memory.md) -/

/-- R190: LD I sets `I` to the unsigned address field. -/
def Obligations.LoadAddressRegister : Prop :=
  ∀ (nnn : Addr) (s : State), ∃ t, exec (.ldI nnn) s = .next t ∧ t.i.toNat = nnn.toNat ∧ t = { s with i := t.i }

/-- ADD I wraps modulo 65536 and writes no flag; LD F points at the glyph of the low digit (R191, R192; the meaning of the two
encodings is general knowledge, VF not written is decision D11, the low 4 bits decision D12). -/
def Obligations.AddressRegisterArithmetic : Prop :=
  ∀ (x : Nibble) (s : State),
    (∃ t, exec (.addI x) s = .next t ∧ t.i.toNat = (s.i.toNat + (s.reg x).toNat) % 65536 ∧ t = { s with i := t.i }) ∧
    (∃ t, exec (.ldF x) s = .next t ∧ t.i.toNat = 0x080 + 5 * ((s.reg x).toNat % 16) ∧ t = { s with i := t.i })

/-- BCD: three digits, hundreds first, at the cells of `I`, `I + 1`, `I + 2`, each wrapping modulo 4096; every other byte and
all else is unchanged, `I` included (R193; the layout is the spec's own decision D15). -/
def Obligations.DecimalDigitsStored : Prop :=
  ∀ (x : Nibble) (s : State), ∃ t, exec (.ldB x) s = .next t ∧
    (t.readMem (s.i.toNat)).toNat = (s.reg x).toNat / 100 ∧
    (t.readMem (s.i.toNat + 1)).toNat = (s.reg x).toNat / 10 % 10 ∧
    (t.readMem (s.i.toNat + 2)).toNat = (s.reg x).toNat % 10 ∧
    (∀ a, (∀ k < 3, a % 4096 ≠ indexedAddr s k % 4096) → t.readMem a = s.readMem a) ∧ t = { s with mem := t.mem }

/-- R194: block store of `V[0]`..`V[x]` from `I` upwards; `I` advances by `x + 1` modulo 65536 unless STQ (the
layout is general knowledge G15). -/
def Obligations.BlockStore : Prop :=
  ∀ (x : Nibble) (s : State), ∃ t, exec (.storeRegs x) s = .next t ∧
    (∀ r : Nibble, r.toNat ≤ x.toNat → t.readMem (indexedAddr s r.toNat) = s.reg r) ∧
    (∀ a, (∀ k ≤ x.toNat, a % 4096 ≠ indexedAddr s k % 4096) → t.readMem a = s.readMem a) ∧
    t.i.toNat = (if s.q.stq then s.i.toNat else (s.i.toNat + x.toNat + 1) % 65536) ∧
    t = { s with mem := t.mem, i := t.i }

/-- R195: block load of `V[0]`..`V[x]`; registers above `x` and all of memory are unchanged (layout: general
knowledge G15). -/
def Obligations.BlockLoad : Prop :=
  ∀ (x : Nibble) (s : State), ∃ t, exec (.loadRegs x) s = .next t ∧
    (∀ r : Nibble, r.toNat ≤ x.toNat → t.reg r = s.readMem (s.i.toNat + r.toNat)) ∧
    (∀ r : Nibble, x.toNat < r.toNat → t.reg r = s.reg r) ∧
    t.i.toNat = (if s.q.stq then s.i.toNat else (s.i.toNat + x.toNat + 1) % 65536) ∧
    (∀ a, t.readMem a = s.readMem a) ∧ t = { s with v := t.v, i := t.i }

/-- R73: where `Fx55` with `x` = 1 stores its two bytes over the instruction to be fetched next, these are what the very next
step decodes and runs (the spec's own decision D30); other stores reach the next fetch through their own statements and
`StepRunsTheDecodedInstruction`. That an `Fx0A` so stored and left unanswered keeps the wait open, its cycle not yet counted, is
the model's choice (log 7). -/
def Obligations.StoreIsSeenByTheNextFetch : Prop :=
  ∀ (s t u : State) (i : Instr), i.wellFormed = true → s.CycleDue → s.skipPending = false → s.i = s.pc →
    0x200 ≤ s.pc.toNat → s.pc.toNat < 0x1000 → s.reg 0#4 = hiByte (encode i) → s.reg 1#4 = loByte (encode i) →
    exec (.storeRegs 1#4) s = .next t → exec i { t with pc := t.pc + 2#16 } = .next u →
    step t = .next (if u.status = .running ∧ u.keyWait = none then { u with cyc := u.cyc + 1 } else u)

/-! ## Display (44_display.md) -/

/-- R210: CLS sets every cell to 0 and marks a render as pending. -/
def Obligations.ClearDisplay : Prop :=
  ∀ s : State, ∃ t, exec .cls s = .next t ∧ (∀ r < 32, ∀ c < 64, Display.get t.disp r c = false) ∧ t.renderPending = true ∧
    t = { s with disp := t.disp, renderPending := t.renderPending }

/-- The sprite loop agrees with its closed form: a cell is flipped iff a set sprite bit falls on it, both axes wrapping; VF
is 1 iff a set bit fell on a set cell; a render is pending (R211; the bit order, the sampling of coordinates before VF and the
empty draw are the spec's own decisions D16, D17, D18). -/
def Obligations.DrawMatchesClosedForm : Prop :=
  ∀ (x y n : Nibble) (s : State), ∃ t, exec (.drw x y n) s = .next t ∧
    (∀ r < 32, ∀ c < 64, Display.get t.disp r c = xor (Display.get s.disp r c) (spriteBit s x y n r c)) ∧
    ((∃ r < 32, ∃ c < 64, Display.get s.disp r c = true ∧ spriteBit s x y n r c = true) → t.reg 15#4 = 1#8) ∧
    ((∀ r < 32, ∀ c < 64, Display.get s.disp r c = true → spriteBit s x y n r c = false) → t.reg 15#4 = 0#8) ∧
    (∀ z, z ≠ 15#4 → t.reg z = s.reg z) ∧ t.renderPending = true ∧
    t = { s with v := t.v, disp := t.disp, renderPending := t.renderPending }

/-- Drawing a sprite twice at the same place restores the buffer, and the second draw reports a collision iff the first set a
cell (R212, whose sentence on the second draw holds where the first draw set a pixel; log 13). -/
def Obligations.DrawingTwiceRestores : Prop :=
  ∀ (x y n : Nibble) (s t : State), x ≠ 15#4 → y ≠ 15#4 → exec (.drw x y n) s = .next t →
    ∃ u, exec (.drw x y n) t = .next u ∧ u.disp = s.disp ∧
      (u.reg 15#4 = 1#8 ↔ ∃ r < 32, ∃ c < 64, Display.get s.disp r c = false ∧ Display.get t.disp r c = true)

/-! ## Timers and keys (45_timers_keys.md) -/

/-- R230, R231, R232: the timer instructions are plain copies (general knowledge G2). -/
def Obligations.TimerCopies : Prop :=
  ∀ (x : Nibble) (s : State),
    (∃ t, exec (.ldVxDT x) s = .next t ∧ t.reg x = s.dt ∧ (∀ r, r ≠ x → t.reg r = s.reg r) ∧ t = { s with v := t.v }) ∧
    exec (.ldDTVx x) s = .next { s with dt := s.reg x } ∧
    exec (.ldSTVx x) s = .next { s with st := s.reg x }

/-- The key wait renders unconditionally, clears all hold state and both timers, and reads: a listed key completes it with the
key index, ESC ends the run, anything else leaves it waiting, with `V[x]` as it was (R233; the details are the spec's own
decisions D19 and D35, the retry as a step of its own is log 7, the record of frames log 12, what the components hold after ESC log 20).
The read uses up one answer of the host (log 1). -/
def Obligations.KeyWaitClearsAndReads : Prop :=
  ∀ (x : Nibble) (s : State), ∃ t, exec (.ldVxK x) s = .next t ∧
    t.renderOut = s.disp.rowMajor :: s.renderOut ∧ t.renderPending = false ∧ (∀ k, t.keySlot k = 0) ∧
    t.dt = 0#8 ∧ t.st = 0#8 ∧ (∀ r, r ≠ x → t.reg r = s.reg r) ∧
    (∀ k, s.waitAnswer = some (.key k) →
      (t.reg x).toNat = (keyIndex k).toNat ∧ t.keyWait = none ∧ t.status = s.status) ∧
    (s.waitAnswer = some .esc → t.reg x = s.reg x ∧ t.keyWait = none ∧ t.status = .exited) ∧
    (s.waitAnswer = none ∨ (∃ c, s.waitAnswer = some (.other c)) →
      t.reg x = s.reg x ∧ t.keyWait = some x ∧ t.status = s.status) ∧
    t.host = { s.host with waits := s.host.waits.tail, asked := s.host.asked + 1 } ∧
    t = { s with
      v := t.v, dt := t.dt, st := t.st, key := t.key, renderPending := t.renderPending, renderOut := t.renderOut,
      status := t.status, keyWait := t.keyWait, host := t.host }

/-- A machine inside a key wait reads again at each step and does nothing else: no cycle, no frame end, no timer, until a
listed key completes the cycle or ESC ends the run (R233; log 7; what the components hold after ESC is log 20). Each read uses up one
answer of the host (log 1). -/
def Obligations.OpenKeyWaitOnlyReads : Prop :=
  ∀ (x : Nibble) (s : State), s.status = .running → 0 < s.cpf → s.keyWait = some x →
    ∃ t, step s = .next t ∧ t.host = { s.host with waits := s.host.waits.tail, asked := s.host.asked + 1 } ∧
      (∀ k, s.waitAnswer = some (.key k) → (t.reg x).toNat = (keyIndex k).toNat ∧ (∀ r, r ≠ x → t.reg r = s.reg r) ∧
        t = { s with v := t.v, keyWait := none, cyc := s.cyc + 1, host := t.host }) ∧
      (s.waitAnswer = some .esc → t = { s with status := .exited, keyWait := none, host := t.host }) ∧
      (s.waitAnswer = none ∨ (∃ c, s.waitAnswer = some (.other c)) → t = { s with host := t.host })

/-! ## The frame end (60_exceptions.md) -/

/-- The pending buffer is exposed as one frame, row by row, and only if a render is pending; the buffer itself is not changed
(R265; the row-major format is the spec's own decision D35, the record of frames log 12). -/
def Obligations.FrameEndRenders : Prop :=
  (∀ d : Display, d.rowMajor.length = 2048 ∧ ∀ r < 32, ∀ c < 64, d.rowMajor[r * 64 + c]? = some (Display.get d r c)) ∧
  ∀ s : State, s.FrameEndDue → ∃ t, step s = .next t ∧ t.renderPending = false ∧ t.disp = s.disp ∧
    t.renderOut = if s.renderPending then s.disp.rowMajor :: s.renderOut else s.renderOut

/-- R266: each timer is decremented by at most 1, never below 0, independently of the other. -/
def Obligations.FrameEndCountsTimers : Prop :=
  ∀ s : State, s.FrameEndDue → ∃ t, step s = .next t ∧ t.dt.toNat = s.dt.toNat - 1 ∧ t.st.toNat = s.st.toNat - 1

/-- Every slot ages by 1, then exactly one poll sets the slot of a listed key to `KEY_HOLD`; ESC ends the run; no key and
unrecognised codes change nothing more, and the machine runs on (R267, R268; ESC and unrecognised codes at the poll are the spec's own decision D20). The poll
uses up one answer of the host (log 1). The slots are those of the table of R269, key by key. What they hold after ESC is log
20. -/
def Obligations.FrameEndAgesAndPollsKeys : Prop :=
  ([KeyName.k1, .k2, .k3, .k4, .kQ, .kW, .kE, .kR, .kA, .kS, .kD, .kF, .kZ, .kX, .kC, .kV].map keyIndex =
    [0x1#4, 0x2#4, 0x3#4, 0xC#4, 0x4#4, 0x5#4, 0x6#4, 0xD#4, 0x7#4, 0x8#4, 0x9#4, 0xE#4, 0xA#4, 0x0#4, 0xB#4, 0xF#4]) ∧
  ∀ s : State, s.FrameEndDue → ∃ t, step s = .next t ∧
    t.host = { s.host with polls := s.host.polls.tail, asked := s.host.asked + 1 } ∧
    (∀ k j, s.pollAnswer = some (.key k) →
      t.keySlot j = (if j = keyIndex k then s.keyHold else s.keySlot j - 1) ∧ t.status = .running) ∧
    (s.pollAnswer = none ∨ s.pollAnswer = some .esc ∨ (∃ c, s.pollAnswer = some (.other c)) →
      ∀ j, t.keySlot j = s.keySlot j - 1) ∧
    (s.pollAnswer = none ∨ (∃ c, s.pollAnswer = some (.other c)) → t.status = .running) ∧
    (s.pollAnswer = some .esc ↔ t.status = .exited)

/-- What a frame end leaves as it was: registers, memory, `I`, `pc`, the stack, the display, the pending skip, the latched
configuration; `cyc` starts again at 0 if the machine still runs (R263, R275; the counter is decision D31; the record of frames is log
12, that the components stay after ESC too is log 20). -/
def Obligations.FrameEndFrame : Prop :=
  ∀ s : State, s.FrameEndDue → ∃ t, step s = .next t ∧ t.cyc = (if t.status = .running then 0 else s.cyc) ∧
    (∀ a, t.readMem a = s.readMem a) ∧
    t = { s with
      dt := t.dt, st := t.st, key := t.key, renderPending := t.renderPending, renderOut := t.renderOut,
      status := t.status, cyc := t.cyc, host := t.host }

/-- A step that begins a cycle counts it where it leaves the machine running and not inside a key wait, and else leaves `cyc`
(R264, R275; D31). The cycle of an `Fx0A` that is left waiting is counted by the later step that ends the wait (log 7). -/
def Obligations.CyclesAreCounted : Prop :=
  ∀ s t : State, s.CycleDue → step s = .next t →
    t.cyc = if t.status = .running ∧ t.keyWait = none then s.cyc + 1 else s.cyc

/-- A key reported at a frame end is held for exactly `KEY_HOLD` frames: in every run that goes on from there, executes no
`Fx0A` and polls that key no more, its slot holds `KEY_HOLD - m` once `m` more frames have ended, so that it is pressed during
the cycles of `KEY_HOLD` frames and no longer (R274). The answer polled is the host's, free (log 1). -/
def Obligations.KeyIsHeldForKeyHoldFrames : Prop :=
  ∀ (s t u : State) (k : KeyName) (m : Nat), s.FrameEndDue → s.pollAnswer = some (.key k) → step s = .next t →
    Run (fun i => ∀ x, i ≠ .ldVxK x) (fun c => c ≠ some (.key k)) t m u →
    u.keySlot (keyIndex k) = s.keyHold - m ∧ (u.pressed (keyIndex k) = true ↔ m < s.keyHold)

/-- A timer counts frame ends and nothing else: a run with `m` frame ends that executes no `Fx0A` and no write of the timer
leaves it at its value less `m`, and so it first reads 0 after exactly as many frame ends as it held (R231, R266). -/
def Obligations.TimerReachesZeroAfterItsValue : Prop :=
  ∀ (s t : State) (m : Nat),
    (Run (fun i => (∀ x, i ≠ .ldVxK x) ∧ ∀ x, i ≠ .ldDTVx x) (fun _ => True) s m t → t.dt.toNat = s.dt.toNat - m) ∧
    (Run (fun i => (∀ x, i ≠ .ldVxK x) ∧ ∀ x, i ≠ .ldSTVx x) (fun _ => True) s m t → t.st.toNat = s.st.toNat - m)

/-! ## Whole-machine rules: who writes what -/

/-- No register changes but a named destination, and VF where the table of R22 says so. -/
def Obligations.RegistersChangeOnlyAsNamed : Prop :=
  ∀ (i : Instr) (s t : State) (r : Nibble), exec i s = .next t → i.hasDestination r = false →
    (r = 15#4 → i.writesVF s.q = false) → t.reg r = s.reg r

/-- No byte of memory changes but the cells `Fx33` and `Fx55` store to (R62, R63). -/
def Obligations.MemoryChangesOnlyWhereStored : Prop :=
  ∀ (i : Instr) (s t : State) (a : Nat), exec i s = .next t → ¬ storesTo i s a → t.readMem a = s.readMem a

/-- Only JP, CALL, RET and `Bnnn` write `pc`, only the six skips the skip flag, only CALL and RET the stack (R25, R26, R34). -/
def Obligations.ControlStateWriters : Prop :=
  ∀ (i : Instr) (s t : State), exec i s = .next t →
    (i.transfers = false → t.pc = s.pc) ∧ (i.skips = false → t.skipPending = s.skipPending) ∧
    (i ≠ .ret → (∀ nnn, i ≠ .call nnn) → t.stack = s.stack ∧ t.sp = s.sp)

/-- Only the listed instructions write `I`, the display, the timers, the keypad; the render flag is written by CLS, DRW and
`Fx0A` alone (R23, R27 to R31). That only `Fx0A` adds to the record of frames is about a field of the model's own (log 12). -/
def Obligations.DeviceStateWriters : Prop :=
  ∀ (i : Instr) (s t : State), exec i s = .next t →
    ((∀ nnn, i ≠ .ldI nnn) → (∀ x, i ≠ .addI x) → (∀ x, i ≠ .ldF x) → (∀ x, i ≠ .storeRegs x) → (∀ x, i ≠ .loadRegs x) →
      t.i = s.i) ∧
    (i ≠ .cls → (∀ x y n, i ≠ .drw x y n) → t.disp = s.disp ∧ ((∀ x, i ≠ .ldVxK x) → t.renderPending = s.renderPending)) ∧
    ((∀ x, i ≠ .ldVxK x) → t.key = s.key ∧ t.renderOut = s.renderOut ∧
      ((∀ x, i ≠ .ldDTVx x) → t.dt = s.dt) ∧ ((∀ x, i ≠ .ldSTVx x) → t.st = s.st))

/-- No move changes the latched configuration or the calibrated idle count (R32, R33, R36), nor the parameters `XF_ORDER` and
`KEY_HOLD` (R6), which the model holds in fields that no step writes (logs 3 and 2, the model's choice). -/
def Obligations.ConfigurationIsLatched : Prop :=
  ∀ (s t : State) (m : Move), s.move m = .next t →
    t.q = s.q ∧ t.cpf = s.cpf ∧ t.xfOrder = s.xfOrder ∧ t.keyHold = s.keyHold ∧ t.idleCount = s.idleCount

/-- The sound timer "has state but no observable effect": a step from a state that differs only in `ST` ends in states that
differ at most in `ST` (R28). -/
def Obligations.SoundTimerIsUnobservable : Prop :=
  ∀ (s t : State) (b : Byte), step s = .next t →
    ∃ u, step { s with st := b } = .next u ∧ u = { t with st := u.st }

/-- `Q.CRY` changes no result and `idle_count` no architectural value: a step commutes with changing them (R36, R322; that CRY
is without effect is the spec's own decision D10). -/
def Obligations.CryAndIdleCountHaveNoEffect : Prop :=
  ∀ (s t : State) (b : Bool) (n : Nat), step s = .next t →
    step { s with q := { s.q with cry := b }, idleCount := n } = .next { t with q := { t.q with cry := b }, idleCount := n }

/-! ## Invariants (10_state.md R40) -/

/-- The machine right after reset meets the invariant (`State.reset` has the default configuration, log 9). -/
def Obligations.ResetMeetsTheInvariant : Prop := State.reset.Inv

/-- Every step keeps the invariant, from every state that meets it. -/
def Obligations.StepKeepsTheInvariant : Prop :=
  ∀ s t : State, s.Inv → step s = .next t → t.Inv

/-- R40: at every step boundary of every run, whatever the configuration, the program and the host, the bounds hold: 8-bit
registers and timers, 16-bit `I`, `0 <= sp <= 1792`, every slot in 0..`KEY_HOLD`, `0 <= cyc <= CPF` (the cells of the display
are 0 or 1 by type). -/
def Obligations.ReachableStatesStayWithinBounds : Prop :=
  ∀ s t : State, s.Booted → Reaches s t →
    (∀ r, (t.reg r).toNat ≤ 255) ∧ t.i.toNat ≤ 65535 ∧ t.dt.toNat ≤ 255 ∧ t.st.toNat ≤ 255 ∧ t.sp.val ≤ 1792 ∧
    (∀ r < 32, ∀ c < 64, Display.get t.disp r c = false ∨ Display.get t.disp r c = true) ∧
    (∀ k, t.keySlot k ≤ t.keyHold) ∧ t.cyc ≤ t.cpf

/-! ## Reset (70_reset_and_hazards.md, 10_state.md R39) and calibration -/

/-- The state a reset sequence ends in is the table of R39: zero but for the font, the image (its first 3584 bytes), `pc`,
the latched configuration and the calibrated idle count (R300 to R306; `pc` is the spec's decision D3, the truncation D24). -/
def Obligations.BootedStateIsTheResetTable : Prop :=
  ∀ (cfg : BootConfig) (image : List Byte) (fallback : Bool) (readings : List (Nat × Nat)) (t : State), image ≠ [] →
    resetSequence cfg (some image) fallback readings = .next t →
    (∀ a < 4096, t.readMem a =
      if h : 0x080 ≤ a ∧ a - 0x080 < 80 then Config.font ⟨a - 0x080, h.2⟩
      else if 0x200 ≤ a then image.getD (a - 0x200) 0#8 else 0#8) ∧
    (∀ r, t.reg r = 0#8) ∧ t.i = 0#16 ∧ t.pc = 0x200#16 ∧ t.sp.val = 0 ∧ (∀ j < 1792, t.stack[j]? = some 0#16) ∧
    t.dt = 0#8 ∧ t.st = 0#8 ∧ (∀ r < 32, ∀ c < 64, Display.get t.disp r c = false) ∧ t.renderPending = false ∧
    (∀ k, t.keySlot k = 0) ∧ t.skipPending = false ∧ t.cyc = 0 ∧ t.q = cfg.q ∧ t.cpf = cfg.cpf ∧ t.status = .running ∧
    calibrate Config.calN0 Config.calGrow Config.calOverhead cfg.cpf fallback readings = some t.idleCount

/-- The model's `State.reset` is the outcome of the reset sequence under the default configuration for the one-byte image
`00` and some clock readings (logs 9 and 10). -/
def Obligations.ResetIsABootOfTheDefaults : Prop :=
  ∃ readings, resetSequence {} (some [0x00#8]) false readings = .next State.reset

/-- R303: an empty or unreadable image is FatalLoadError before the run starts: no cycle ever runs (that a step asked of the
machine is a named fault is log 6, the model's choice). -/
def Obligations.EmptyImageIsALoadError : Prop :=
  ∀ (cfg : BootConfig) (fallback : Bool) (readings : List (Nat × Nat)) (prog : Option (List Byte)),
    (prog = none ∨ prog = some []) →
    ∃ t, resetSequence cfg prog fallback readings = .next t ∧ t.status = .halted .loadError ∧
      step t = .fault .machineHalted

/-- The calibrator retries over readings of zero elapsed time, whatever the times, with a growing count and computes the idle
count from the first nonzero one (R271); under the whole-second fallback clock a time is read in steps of 1000 ms (R272). The
rounding and the clamp are the spec's own decision D28. -/
def Obligations.CalibrationUsesTheFirstNonzeroReading : Prop :=
  ∀ (n0 overhead cpf t0 t1 : Nat) (grow : Nat → Nat) (fallback : Bool) (zeros rest : List (Nat × Nat)) (clock : Nat → Nat),
    (∀ ms, clock ms = if fallback then ms - ms % 1000 else ms) →
    (∀ r ∈ zeros, clock r.1 = clock r.2) → clock t0 < clock t1 →
    calibrate n0 grow overhead cpf fallback (zeros ++ (t0, t1) :: rest) =
      some ((grow^[zeros.length] n0) / (clock t1 - clock t0) * 1000 / 60 - cpf - overhead)
end

