-- ==== Sys2Proof/Laws/State.lean ====
section
/-! SUPPORT. One lemma per field for each elementary update of State, true by rfl: later proofs unfold no record update. -/

namespace Sys2Proof.Machine

variable (s : State)

@[simp] theorem setReg_mem (x : Nibble) (b : Byte) : (s.setReg x b).mem = s.mem := rfl
@[simp] theorem setReg_v (x : Nibble) (b : Byte) : (s.setReg x b).v = s.v.set x.toNat b x.isLt := rfl
@[simp] theorem setReg_i (x : Nibble) (b : Byte) : (s.setReg x b).i = s.i := rfl
@[simp] theorem setReg_pc (x : Nibble) (b : Byte) : (s.setReg x b).pc = s.pc := rfl
@[simp] theorem setReg_stack (x : Nibble) (b : Byte) : (s.setReg x b).stack = s.stack := rfl
@[simp] theorem setReg_sp (x : Nibble) (b : Byte) : (s.setReg x b).sp = s.sp := rfl
@[simp] theorem setReg_dt (x : Nibble) (b : Byte) : (s.setReg x b).dt = s.dt := rfl
@[simp] theorem setReg_st (x : Nibble) (b : Byte) : (s.setReg x b).st = s.st := rfl
@[simp] theorem setReg_disp (x : Nibble) (b : Byte) : (s.setReg x b).disp = s.disp := rfl
@[simp] theorem setReg_renderPending (x : Nibble) (b : Byte) : (s.setReg x b).renderPending = s.renderPending := rfl
@[simp] theorem setReg_key (x : Nibble) (b : Byte) : (s.setReg x b).key = s.key := rfl
@[simp] theorem setReg_q (x : Nibble) (b : Byte) : (s.setReg x b).q = s.q := rfl
@[simp] theorem setReg_cpf (x : Nibble) (b : Byte) : (s.setReg x b).cpf = s.cpf := rfl
@[simp] theorem setReg_skipPending (x : Nibble) (b : Byte) : (s.setReg x b).skipPending = s.skipPending := rfl
@[simp] theorem setReg_status (x : Nibble) (b : Byte) : (s.setReg x b).status = s.status := rfl
@[simp] theorem setReg_idleCount (x : Nibble) (b : Byte) : (s.setReg x b).idleCount = s.idleCount := rfl
@[simp] theorem setReg_cyc (x : Nibble) (b : Byte) : (s.setReg x b).cyc = s.cyc := rfl
@[simp] theorem setReg_xfOrder (x : Nibble) (b : Byte) : (s.setReg x b).xfOrder = s.xfOrder := rfl
@[simp] theorem setReg_keyHold (x : Nibble) (b : Byte) : (s.setReg x b).keyHold = s.keyHold := rfl
@[simp] theorem setReg_keyWait (x : Nibble) (b : Byte) : (s.setReg x b).keyWait = s.keyWait := rfl
@[simp] theorem setReg_host (x : Nibble) (b : Byte) : (s.setReg x b).host = s.host := rfl
@[simp] theorem setReg_renderOut (x : Nibble) (b : Byte) : (s.setReg x b).renderOut = s.renderOut := rfl

@[simp] theorem setI_mem (w : Word) : (s.setI w).mem = s.mem := rfl
@[simp] theorem setI_v (w : Word) : (s.setI w).v = s.v := rfl
@[simp] theorem setI_i (w : Word) : (s.setI w).i = w := rfl
@[simp] theorem setI_pc (w : Word) : (s.setI w).pc = s.pc := rfl
@[simp] theorem setI_stack (w : Word) : (s.setI w).stack = s.stack := rfl
@[simp] theorem setI_sp (w : Word) : (s.setI w).sp = s.sp := rfl
@[simp] theorem setI_dt (w : Word) : (s.setI w).dt = s.dt := rfl
@[simp] theorem setI_st (w : Word) : (s.setI w).st = s.st := rfl
@[simp] theorem setI_disp (w : Word) : (s.setI w).disp = s.disp := rfl
@[simp] theorem setI_renderPending (w : Word) : (s.setI w).renderPending = s.renderPending := rfl
@[simp] theorem setI_key (w : Word) : (s.setI w).key = s.key := rfl
@[simp] theorem setI_q (w : Word) : (s.setI w).q = s.q := rfl
@[simp] theorem setI_cpf (w : Word) : (s.setI w).cpf = s.cpf := rfl
@[simp] theorem setI_skipPending (w : Word) : (s.setI w).skipPending = s.skipPending := rfl
@[simp] theorem setI_status (w : Word) : (s.setI w).status = s.status := rfl
@[simp] theorem setI_idleCount (w : Word) : (s.setI w).idleCount = s.idleCount := rfl
@[simp] theorem setI_cyc (w : Word) : (s.setI w).cyc = s.cyc := rfl
@[simp] theorem setI_xfOrder (w : Word) : (s.setI w).xfOrder = s.xfOrder := rfl
@[simp] theorem setI_keyHold (w : Word) : (s.setI w).keyHold = s.keyHold := rfl
@[simp] theorem setI_keyWait (w : Word) : (s.setI w).keyWait = s.keyWait := rfl
@[simp] theorem setI_host (w : Word) : (s.setI w).host = s.host := rfl
@[simp] theorem setI_renderOut (w : Word) : (s.setI w).renderOut = s.renderOut := rfl

@[simp] theorem setPc_mem (w : Word) : (s.setPc w).mem = s.mem := rfl
@[simp] theorem setPc_v (w : Word) : (s.setPc w).v = s.v := rfl
@[simp] theorem setPc_i (w : Word) : (s.setPc w).i = s.i := rfl
@[simp] theorem setPc_pc (w : Word) : (s.setPc w).pc = w := rfl
@[simp] theorem setPc_stack (w : Word) : (s.setPc w).stack = s.stack := rfl
@[simp] theorem setPc_sp (w : Word) : (s.setPc w).sp = s.sp := rfl
@[simp] theorem setPc_dt (w : Word) : (s.setPc w).dt = s.dt := rfl
@[simp] theorem setPc_st (w : Word) : (s.setPc w).st = s.st := rfl
@[simp] theorem setPc_disp (w : Word) : (s.setPc w).disp = s.disp := rfl
@[simp] theorem setPc_renderPending (w : Word) : (s.setPc w).renderPending = s.renderPending := rfl
@[simp] theorem setPc_key (w : Word) : (s.setPc w).key = s.key := rfl
@[simp] theorem setPc_q (w : Word) : (s.setPc w).q = s.q := rfl
@[simp] theorem setPc_cpf (w : Word) : (s.setPc w).cpf = s.cpf := rfl
@[simp] theorem setPc_skipPending (w : Word) : (s.setPc w).skipPending = s.skipPending := rfl
@[simp] theorem setPc_status (w : Word) : (s.setPc w).status = s.status := rfl
@[simp] theorem setPc_idleCount (w : Word) : (s.setPc w).idleCount = s.idleCount := rfl
@[simp] theorem setPc_cyc (w : Word) : (s.setPc w).cyc = s.cyc := rfl
@[simp] theorem setPc_xfOrder (w : Word) : (s.setPc w).xfOrder = s.xfOrder := rfl
@[simp] theorem setPc_keyHold (w : Word) : (s.setPc w).keyHold = s.keyHold := rfl
@[simp] theorem setPc_keyWait (w : Word) : (s.setPc w).keyWait = s.keyWait := rfl
@[simp] theorem setPc_host (w : Word) : (s.setPc w).host = s.host := rfl
@[simp] theorem setPc_renderOut (w : Word) : (s.setPc w).renderOut = s.renderOut := rfl

@[simp] theorem setMem_mem (m : Memory) : (s.setMem m).mem = m := rfl
@[simp] theorem setMem_v (m : Memory) : (s.setMem m).v = s.v := rfl
@[simp] theorem setMem_i (m : Memory) : (s.setMem m).i = s.i := rfl
@[simp] theorem setMem_pc (m : Memory) : (s.setMem m).pc = s.pc := rfl
@[simp] theorem setMem_stack (m : Memory) : (s.setMem m).stack = s.stack := rfl
@[simp] theorem setMem_sp (m : Memory) : (s.setMem m).sp = s.sp := rfl
@[simp] theorem setMem_dt (m : Memory) : (s.setMem m).dt = s.dt := rfl
@[simp] theorem setMem_st (m : Memory) : (s.setMem m).st = s.st := rfl
@[simp] theorem setMem_disp (m : Memory) : (s.setMem m).disp = s.disp := rfl
@[simp] theorem setMem_renderPending (m : Memory) : (s.setMem m).renderPending = s.renderPending := rfl
@[simp] theorem setMem_key (m : Memory) : (s.setMem m).key = s.key := rfl
@[simp] theorem setMem_q (m : Memory) : (s.setMem m).q = s.q := rfl
@[simp] theorem setMem_cpf (m : Memory) : (s.setMem m).cpf = s.cpf := rfl
@[simp] theorem setMem_skipPending (m : Memory) : (s.setMem m).skipPending = s.skipPending := rfl
@[simp] theorem setMem_status (m : Memory) : (s.setMem m).status = s.status := rfl
@[simp] theorem setMem_idleCount (m : Memory) : (s.setMem m).idleCount = s.idleCount := rfl
@[simp] theorem setMem_cyc (m : Memory) : (s.setMem m).cyc = s.cyc := rfl
@[simp] theorem setMem_xfOrder (m : Memory) : (s.setMem m).xfOrder = s.xfOrder := rfl
@[simp] theorem setMem_keyHold (m : Memory) : (s.setMem m).keyHold = s.keyHold := rfl
@[simp] theorem setMem_keyWait (m : Memory) : (s.setMem m).keyWait = s.keyWait := rfl
@[simp] theorem setMem_host (m : Memory) : (s.setMem m).host = s.host := rfl
@[simp] theorem setMem_renderOut (m : Memory) : (s.setMem m).renderOut = s.renderOut := rfl

@[simp] theorem setDT_mem (b : Byte) : (s.setDT b).mem = s.mem := rfl
@[simp] theorem setDT_v (b : Byte) : (s.setDT b).v = s.v := rfl
@[simp] theorem setDT_i (b : Byte) : (s.setDT b).i = s.i := rfl
@[simp] theorem setDT_pc (b : Byte) : (s.setDT b).pc = s.pc := rfl
@[simp] theorem setDT_stack (b : Byte) : (s.setDT b).stack = s.stack := rfl
@[simp] theorem setDT_sp (b : Byte) : (s.setDT b).sp = s.sp := rfl
@[simp] theorem setDT_dt (b : Byte) : (s.setDT b).dt = b := rfl
@[simp] theorem setDT_st (b : Byte) : (s.setDT b).st = s.st := rfl
@[simp] theorem setDT_disp (b : Byte) : (s.setDT b).disp = s.disp := rfl
@[simp] theorem setDT_renderPending (b : Byte) : (s.setDT b).renderPending = s.renderPending := rfl
@[simp] theorem setDT_key (b : Byte) : (s.setDT b).key = s.key := rfl
@[simp] theorem setDT_q (b : Byte) : (s.setDT b).q = s.q := rfl
@[simp] theorem setDT_cpf (b : Byte) : (s.setDT b).cpf = s.cpf := rfl
@[simp] theorem setDT_skipPending (b : Byte) : (s.setDT b).skipPending = s.skipPending := rfl
@[simp] theorem setDT_status (b : Byte) : (s.setDT b).status = s.status := rfl
@[simp] theorem setDT_idleCount (b : Byte) : (s.setDT b).idleCount = s.idleCount := rfl
@[simp] theorem setDT_cyc (b : Byte) : (s.setDT b).cyc = s.cyc := rfl
@[simp] theorem setDT_xfOrder (b : Byte) : (s.setDT b).xfOrder = s.xfOrder := rfl
@[simp] theorem setDT_keyHold (b : Byte) : (s.setDT b).keyHold = s.keyHold := rfl
@[simp] theorem setDT_keyWait (b : Byte) : (s.setDT b).keyWait = s.keyWait := rfl
@[simp] theorem setDT_host (b : Byte) : (s.setDT b).host = s.host := rfl
@[simp] theorem setDT_renderOut (b : Byte) : (s.setDT b).renderOut = s.renderOut := rfl

@[simp] theorem setST_mem (b : Byte) : (s.setST b).mem = s.mem := rfl
@[simp] theorem setST_v (b : Byte) : (s.setST b).v = s.v := rfl
@[simp] theorem setST_i (b : Byte) : (s.setST b).i = s.i := rfl
@[simp] theorem setST_pc (b : Byte) : (s.setST b).pc = s.pc := rfl
@[simp] theorem setST_stack (b : Byte) : (s.setST b).stack = s.stack := rfl
@[simp] theorem setST_sp (b : Byte) : (s.setST b).sp = s.sp := rfl
@[simp] theorem setST_dt (b : Byte) : (s.setST b).dt = s.dt := rfl
@[simp] theorem setST_st (b : Byte) : (s.setST b).st = b := rfl
@[simp] theorem setST_disp (b : Byte) : (s.setST b).disp = s.disp := rfl
@[simp] theorem setST_renderPending (b : Byte) : (s.setST b).renderPending = s.renderPending := rfl
@[simp] theorem setST_key (b : Byte) : (s.setST b).key = s.key := rfl
@[simp] theorem setST_q (b : Byte) : (s.setST b).q = s.q := rfl
@[simp] theorem setST_cpf (b : Byte) : (s.setST b).cpf = s.cpf := rfl
@[simp] theorem setST_skipPending (b : Byte) : (s.setST b).skipPending = s.skipPending := rfl
@[simp] theorem setST_status (b : Byte) : (s.setST b).status = s.status := rfl
@[simp] theorem setST_idleCount (b : Byte) : (s.setST b).idleCount = s.idleCount := rfl
@[simp] theorem setST_cyc (b : Byte) : (s.setST b).cyc = s.cyc := rfl
@[simp] theorem setST_xfOrder (b : Byte) : (s.setST b).xfOrder = s.xfOrder := rfl
@[simp] theorem setST_keyHold (b : Byte) : (s.setST b).keyHold = s.keyHold := rfl
@[simp] theorem setST_keyWait (b : Byte) : (s.setST b).keyWait = s.keyWait := rfl
@[simp] theorem setST_host (b : Byte) : (s.setST b).host = s.host := rfl
@[simp] theorem setST_renderOut (b : Byte) : (s.setST b).renderOut = s.renderOut := rfl

@[simp] theorem setDisplay_mem (d : Display) : (s.setDisplay d).mem = s.mem := rfl
@[simp] theorem setDisplay_v (d : Display) : (s.setDisplay d).v = s.v := rfl
@[simp] theorem setDisplay_i (d : Display) : (s.setDisplay d).i = s.i := rfl
@[simp] theorem setDisplay_pc (d : Display) : (s.setDisplay d).pc = s.pc := rfl
@[simp] theorem setDisplay_stack (d : Display) : (s.setDisplay d).stack = s.stack := rfl
@[simp] theorem setDisplay_sp (d : Display) : (s.setDisplay d).sp = s.sp := rfl
@[simp] theorem setDisplay_dt (d : Display) : (s.setDisplay d).dt = s.dt := rfl
@[simp] theorem setDisplay_st (d : Display) : (s.setDisplay d).st = s.st := rfl
@[simp] theorem setDisplay_disp (d : Display) : (s.setDisplay d).disp = d := rfl
@[simp] theorem setDisplay_renderPending (d : Display) : (s.setDisplay d).renderPending = true := rfl
@[simp] theorem setDisplay_key (d : Display) : (s.setDisplay d).key = s.key := rfl
@[simp] theorem setDisplay_q (d : Display) : (s.setDisplay d).q = s.q := rfl
@[simp] theorem setDisplay_cpf (d : Display) : (s.setDisplay d).cpf = s.cpf := rfl
@[simp] theorem setDisplay_skipPending (d : Display) : (s.setDisplay d).skipPending = s.skipPending := rfl
@[simp] theorem setDisplay_status (d : Display) : (s.setDisplay d).status = s.status := rfl
@[simp] theorem setDisplay_idleCount (d : Display) : (s.setDisplay d).idleCount = s.idleCount := rfl
@[simp] theorem setDisplay_cyc (d : Display) : (s.setDisplay d).cyc = s.cyc := rfl
@[simp] theorem setDisplay_xfOrder (d : Display) : (s.setDisplay d).xfOrder = s.xfOrder := rfl
@[simp] theorem setDisplay_keyHold (d : Display) : (s.setDisplay d).keyHold = s.keyHold := rfl
@[simp] theorem setDisplay_keyWait (d : Display) : (s.setDisplay d).keyWait = s.keyWait := rfl
@[simp] theorem setDisplay_host (d : Display) : (s.setDisplay d).host = s.host := rfl
@[simp] theorem setDisplay_renderOut (d : Display) : (s.setDisplay d).renderOut = s.renderOut := rfl

@[simp] theorem emitFrame_mem : (s.emitFrame).mem = s.mem := rfl
@[simp] theorem emitFrame_v : (s.emitFrame).v = s.v := rfl
@[simp] theorem emitFrame_i : (s.emitFrame).i = s.i := rfl
@[simp] theorem emitFrame_pc : (s.emitFrame).pc = s.pc := rfl
@[simp] theorem emitFrame_stack : (s.emitFrame).stack = s.stack := rfl
@[simp] theorem emitFrame_sp : (s.emitFrame).sp = s.sp := rfl
@[simp] theorem emitFrame_dt : (s.emitFrame).dt = s.dt := rfl
@[simp] theorem emitFrame_st : (s.emitFrame).st = s.st := rfl
@[simp] theorem emitFrame_disp : (s.emitFrame).disp = s.disp := rfl
@[simp] theorem emitFrame_renderPending : (s.emitFrame).renderPending = false := rfl
@[simp] theorem emitFrame_key : (s.emitFrame).key = s.key := rfl
@[simp] theorem emitFrame_q : (s.emitFrame).q = s.q := rfl
@[simp] theorem emitFrame_cpf : (s.emitFrame).cpf = s.cpf := rfl
@[simp] theorem emitFrame_skipPending : (s.emitFrame).skipPending = s.skipPending := rfl
@[simp] theorem emitFrame_status : (s.emitFrame).status = s.status := rfl
@[simp] theorem emitFrame_idleCount : (s.emitFrame).idleCount = s.idleCount := rfl
@[simp] theorem emitFrame_cyc : (s.emitFrame).cyc = s.cyc := rfl
@[simp] theorem emitFrame_xfOrder : (s.emitFrame).xfOrder = s.xfOrder := rfl
@[simp] theorem emitFrame_keyHold : (s.emitFrame).keyHold = s.keyHold := rfl
@[simp] theorem emitFrame_keyWait : (s.emitFrame).keyWait = s.keyWait := rfl
@[simp] theorem emitFrame_host : (s.emitFrame).host = s.host := rfl
@[simp] theorem emitFrame_renderOut : (s.emitFrame).renderOut = s.disp.rowMajor :: s.renderOut := rfl

@[simp] theorem clearKeysAndTimers_mem : (s.clearKeysAndTimers).mem = s.mem := rfl
@[simp] theorem clearKeysAndTimers_v : (s.clearKeysAndTimers).v = s.v := rfl
@[simp] theorem clearKeysAndTimers_i : (s.clearKeysAndTimers).i = s.i := rfl
@[simp] theorem clearKeysAndTimers_pc : (s.clearKeysAndTimers).pc = s.pc := rfl
@[simp] theorem clearKeysAndTimers_stack : (s.clearKeysAndTimers).stack = s.stack := rfl
@[simp] theorem clearKeysAndTimers_sp : (s.clearKeysAndTimers).sp = s.sp := rfl
@[simp] theorem clearKeysAndTimers_dt : (s.clearKeysAndTimers).dt = 0#8 := rfl
@[simp] theorem clearKeysAndTimers_st : (s.clearKeysAndTimers).st = 0#8 := rfl
@[simp] theorem clearKeysAndTimers_disp : (s.clearKeysAndTimers).disp = s.disp := rfl
@[simp] theorem clearKeysAndTimers_renderPending : (s.clearKeysAndTimers).renderPending = s.renderPending := rfl
@[simp] theorem clearKeysAndTimers_key : (s.clearKeysAndTimers).key = Vector.replicate 16 0 := rfl
@[simp] theorem clearKeysAndTimers_q : (s.clearKeysAndTimers).q = s.q := rfl
@[simp] theorem clearKeysAndTimers_cpf : (s.clearKeysAndTimers).cpf = s.cpf := rfl
@[simp] theorem clearKeysAndTimers_skipPending : (s.clearKeysAndTimers).skipPending = s.skipPending := rfl
@[simp] theorem clearKeysAndTimers_status : (s.clearKeysAndTimers).status = s.status := rfl
@[simp] theorem clearKeysAndTimers_idleCount : (s.clearKeysAndTimers).idleCount = s.idleCount := rfl
@[simp] theorem clearKeysAndTimers_cyc : (s.clearKeysAndTimers).cyc = s.cyc := rfl
@[simp] theorem clearKeysAndTimers_xfOrder : (s.clearKeysAndTimers).xfOrder = s.xfOrder := rfl
@[simp] theorem clearKeysAndTimers_keyHold : (s.clearKeysAndTimers).keyHold = s.keyHold := rfl
@[simp] theorem clearKeysAndTimers_keyWait : (s.clearKeysAndTimers).keyWait = s.keyWait := rfl
@[simp] theorem clearKeysAndTimers_host : (s.clearKeysAndTimers).host = s.host := rfl
@[simp] theorem clearKeysAndTimers_renderOut : (s.clearKeysAndTimers).renderOut = s.renderOut := rfl

@[simp] theorem setKeySlot_mem (k : Nibble) (n : Nat) : (s.setKeySlot k n).mem = s.mem := rfl
@[simp] theorem setKeySlot_v (k : Nibble) (n : Nat) : (s.setKeySlot k n).v = s.v := rfl
@[simp] theorem setKeySlot_i (k : Nibble) (n : Nat) : (s.setKeySlot k n).i = s.i := rfl
@[simp] theorem setKeySlot_pc (k : Nibble) (n : Nat) : (s.setKeySlot k n).pc = s.pc := rfl
@[simp] theorem setKeySlot_stack (k : Nibble) (n : Nat) : (s.setKeySlot k n).stack = s.stack := rfl
@[simp] theorem setKeySlot_sp (k : Nibble) (n : Nat) : (s.setKeySlot k n).sp = s.sp := rfl
@[simp] theorem setKeySlot_dt (k : Nibble) (n : Nat) : (s.setKeySlot k n).dt = s.dt := rfl
@[simp] theorem setKeySlot_st (k : Nibble) (n : Nat) : (s.setKeySlot k n).st = s.st := rfl
@[simp] theorem setKeySlot_disp (k : Nibble) (n : Nat) : (s.setKeySlot k n).disp = s.disp := rfl
@[simp] theorem setKeySlot_renderPending (k : Nibble) (n : Nat) : (s.setKeySlot k n).renderPending = s.renderPending := rfl
@[simp] theorem setKeySlot_key (k : Nibble) (n : Nat) : (s.setKeySlot k n).key = s.key.set k.toNat n k.isLt := rfl
@[simp] theorem setKeySlot_q (k : Nibble) (n : Nat) : (s.setKeySlot k n).q = s.q := rfl
@[simp] theorem setKeySlot_cpf (k : Nibble) (n : Nat) : (s.setKeySlot k n).cpf = s.cpf := rfl
@[simp] theorem setKeySlot_skipPending (k : Nibble) (n : Nat) : (s.setKeySlot k n).skipPending = s.skipPending := rfl
@[simp] theorem setKeySlot_status (k : Nibble) (n : Nat) : (s.setKeySlot k n).status = s.status := rfl
@[simp] theorem setKeySlot_idleCount (k : Nibble) (n : Nat) : (s.setKeySlot k n).idleCount = s.idleCount := rfl
@[simp] theorem setKeySlot_cyc (k : Nibble) (n : Nat) : (s.setKeySlot k n).cyc = s.cyc := rfl
@[simp] theorem setKeySlot_xfOrder (k : Nibble) (n : Nat) : (s.setKeySlot k n).xfOrder = s.xfOrder := rfl
@[simp] theorem setKeySlot_keyHold (k : Nibble) (n : Nat) : (s.setKeySlot k n).keyHold = s.keyHold := rfl
@[simp] theorem setKeySlot_keyWait (k : Nibble) (n : Nat) : (s.setKeySlot k n).keyWait = s.keyWait := rfl
@[simp] theorem setKeySlot_host (k : Nibble) (n : Nat) : (s.setKeySlot k n).host = s.host := rfl
@[simp] theorem setKeySlot_renderOut (k : Nibble) (n : Nat) : (s.setKeySlot k n).renderOut = s.renderOut := rfl

@[simp] theorem skipIf_mem (c : Bool) : (s.skipIf c).mem = s.mem := rfl
@[simp] theorem skipIf_v (c : Bool) : (s.skipIf c).v = s.v := rfl
@[simp] theorem skipIf_i (c : Bool) : (s.skipIf c).i = s.i := rfl
@[simp] theorem skipIf_pc (c : Bool) : (s.skipIf c).pc = s.pc := rfl
@[simp] theorem skipIf_stack (c : Bool) : (s.skipIf c).stack = s.stack := rfl
@[simp] theorem skipIf_sp (c : Bool) : (s.skipIf c).sp = s.sp := rfl
@[simp] theorem skipIf_dt (c : Bool) : (s.skipIf c).dt = s.dt := rfl
@[simp] theorem skipIf_st (c : Bool) : (s.skipIf c).st = s.st := rfl
@[simp] theorem skipIf_disp (c : Bool) : (s.skipIf c).disp = s.disp := rfl
@[simp] theorem skipIf_renderPending (c : Bool) : (s.skipIf c).renderPending = s.renderPending := rfl
@[simp] theorem skipIf_key (c : Bool) : (s.skipIf c).key = s.key := rfl
@[simp] theorem skipIf_q (c : Bool) : (s.skipIf c).q = s.q := rfl
@[simp] theorem skipIf_cpf (c : Bool) : (s.skipIf c).cpf = s.cpf := rfl
@[simp] theorem skipIf_skipPending (c : Bool) : (s.skipIf c).skipPending = (s.skipPending || c) := rfl
@[simp] theorem skipIf_status (c : Bool) : (s.skipIf c).status = s.status := rfl
@[simp] theorem skipIf_idleCount (c : Bool) : (s.skipIf c).idleCount = s.idleCount := rfl
@[simp] theorem skipIf_cyc (c : Bool) : (s.skipIf c).cyc = s.cyc := rfl
@[simp] theorem skipIf_xfOrder (c : Bool) : (s.skipIf c).xfOrder = s.xfOrder := rfl
@[simp] theorem skipIf_keyHold (c : Bool) : (s.skipIf c).keyHold = s.keyHold := rfl
@[simp] theorem skipIf_keyWait (c : Bool) : (s.skipIf c).keyWait = s.keyWait := rfl
@[simp] theorem skipIf_host (c : Bool) : (s.skipIf c).host = s.host := rfl
@[simp] theorem skipIf_renderOut (c : Bool) : (s.skipIf c).renderOut = s.renderOut := rfl

@[simp] theorem pushReturn_mem (w : Word) (h : s.sp.val < 1792) : (s.pushReturn w h).mem = s.mem := rfl
@[simp] theorem pushReturn_v (w : Word) (h : s.sp.val < 1792) : (s.pushReturn w h).v = s.v := rfl
@[simp] theorem pushReturn_i (w : Word) (h : s.sp.val < 1792) : (s.pushReturn w h).i = s.i := rfl
@[simp] theorem pushReturn_pc (w : Word) (h : s.sp.val < 1792) : (s.pushReturn w h).pc = s.pc := rfl
@[simp] theorem pushReturn_stack (w : Word) (h : s.sp.val < 1792) : (s.pushReturn w h).stack = s.stack.set s.sp.val w h := rfl
@[simp] theorem pushReturn_sp (w : Word) (h : s.sp.val < 1792) : (s.pushReturn w h).sp = ⟨s.sp.val + 1, Nat.succ_lt_succ h⟩ := rfl
@[simp] theorem pushReturn_dt (w : Word) (h : s.sp.val < 1792) : (s.pushReturn w h).dt = s.dt := rfl
@[simp] theorem pushReturn_st (w : Word) (h : s.sp.val < 1792) : (s.pushReturn w h).st = s.st := rfl
@[simp] theorem pushReturn_disp (w : Word) (h : s.sp.val < 1792) : (s.pushReturn w h).disp = s.disp := rfl
@[simp] theorem pushReturn_renderPending (w : Word) (h : s.sp.val < 1792) : (s.pushReturn w h).renderPending = s.renderPending := rfl
@[simp] theorem pushReturn_key (w : Word) (h : s.sp.val < 1792) : (s.pushReturn w h).key = s.key := rfl
@[simp] theorem pushReturn_q (w : Word) (h : s.sp.val < 1792) : (s.pushReturn w h).q = s.q := rfl
@[simp] theorem pushReturn_cpf (w : Word) (h : s.sp.val < 1792) : (s.pushReturn w h).cpf = s.cpf := rfl
@[simp] theorem pushReturn_skipPending (w : Word) (h : s.sp.val < 1792) : (s.pushReturn w h).skipPending = s.skipPending := rfl
@[simp] theorem pushReturn_status (w : Word) (h : s.sp.val < 1792) : (s.pushReturn w h).status = s.status := rfl
@[simp] theorem pushReturn_idleCount (w : Word) (h : s.sp.val < 1792) : (s.pushReturn w h).idleCount = s.idleCount := rfl
@[simp] theorem pushReturn_cyc (w : Word) (h : s.sp.val < 1792) : (s.pushReturn w h).cyc = s.cyc := rfl
@[simp] theorem pushReturn_xfOrder (w : Word) (h : s.sp.val < 1792) : (s.pushReturn w h).xfOrder = s.xfOrder := rfl
@[simp] theorem pushReturn_keyHold (w : Word) (h : s.sp.val < 1792) : (s.pushReturn w h).keyHold = s.keyHold := rfl
@[simp] theorem pushReturn_keyWait (w : Word) (h : s.sp.val < 1792) : (s.pushReturn w h).keyWait = s.keyWait := rfl
@[simp] theorem pushReturn_host (w : Word) (h : s.sp.val < 1792) : (s.pushReturn w h).host = s.host := rfl
@[simp] theorem pushReturn_renderOut (w : Word) (h : s.sp.val < 1792) : (s.pushReturn w h).renderOut = s.renderOut := rfl

@[simp] theorem popReturn_mem (h : 0 < s.sp.val) : (s.popReturn h).mem = s.mem := rfl
@[simp] theorem popReturn_v (h : 0 < s.sp.val) : (s.popReturn h).v = s.v := rfl
@[simp] theorem popReturn_i (h : 0 < s.sp.val) : (s.popReturn h).i = s.i := rfl
@[simp] theorem popReturn_pc (h : 0 < s.sp.val) : (s.popReturn h).pc = s.stack[s.sp.val - 1]'(by have := s.sp.isLt; omega) := rfl
@[simp] theorem popReturn_stack (h : 0 < s.sp.val) : (s.popReturn h).stack = s.stack := rfl
@[simp] theorem popReturn_sp (h : 0 < s.sp.val) : (s.popReturn h).sp = ⟨s.sp.val - 1, Nat.lt_of_le_of_lt (Nat.sub_le _ _) s.sp.isLt⟩ := rfl
@[simp] theorem popReturn_dt (h : 0 < s.sp.val) : (s.popReturn h).dt = s.dt := rfl
@[simp] theorem popReturn_st (h : 0 < s.sp.val) : (s.popReturn h).st = s.st := rfl
@[simp] theorem popReturn_disp (h : 0 < s.sp.val) : (s.popReturn h).disp = s.disp := rfl
@[simp] theorem popReturn_renderPending (h : 0 < s.sp.val) : (s.popReturn h).renderPending = s.renderPending := rfl
@[simp] theorem popReturn_key (h : 0 < s.sp.val) : (s.popReturn h).key = s.key := rfl
@[simp] theorem popReturn_q (h : 0 < s.sp.val) : (s.popReturn h).q = s.q := rfl
@[simp] theorem popReturn_cpf (h : 0 < s.sp.val) : (s.popReturn h).cpf = s.cpf := rfl
@[simp] theorem popReturn_skipPending (h : 0 < s.sp.val) : (s.popReturn h).skipPending = s.skipPending := rfl
@[simp] theorem popReturn_status (h : 0 < s.sp.val) : (s.popReturn h).status = s.status := rfl
@[simp] theorem popReturn_idleCount (h : 0 < s.sp.val) : (s.popReturn h).idleCount = s.idleCount := rfl
@[simp] theorem popReturn_cyc (h : 0 < s.sp.val) : (s.popReturn h).cyc = s.cyc := rfl
@[simp] theorem popReturn_xfOrder (h : 0 < s.sp.val) : (s.popReturn h).xfOrder = s.xfOrder := rfl
@[simp] theorem popReturn_keyHold (h : 0 < s.sp.val) : (s.popReturn h).keyHold = s.keyHold := rfl
@[simp] theorem popReturn_keyWait (h : 0 < s.sp.val) : (s.popReturn h).keyWait = s.keyWait := rfl
@[simp] theorem popReturn_host (h : 0 < s.sp.val) : (s.popReturn h).host = s.host := rfl
@[simp] theorem popReturn_renderOut (h : 0 < s.sp.val) : (s.popReturn h).renderOut = s.renderOut := rfl

@[simp] theorem askedRnd_mem : (s.askedRnd).mem = s.mem := rfl
@[simp] theorem askedRnd_v : (s.askedRnd).v = s.v := rfl
@[simp] theorem askedRnd_i : (s.askedRnd).i = s.i := rfl
@[simp] theorem askedRnd_pc : (s.askedRnd).pc = s.pc := rfl
@[simp] theorem askedRnd_stack : (s.askedRnd).stack = s.stack := rfl
@[simp] theorem askedRnd_sp : (s.askedRnd).sp = s.sp := rfl
@[simp] theorem askedRnd_dt : (s.askedRnd).dt = s.dt := rfl
@[simp] theorem askedRnd_st : (s.askedRnd).st = s.st := rfl
@[simp] theorem askedRnd_disp : (s.askedRnd).disp = s.disp := rfl
@[simp] theorem askedRnd_renderPending : (s.askedRnd).renderPending = s.renderPending := rfl
@[simp] theorem askedRnd_key : (s.askedRnd).key = s.key := rfl
@[simp] theorem askedRnd_q : (s.askedRnd).q = s.q := rfl
@[simp] theorem askedRnd_cpf : (s.askedRnd).cpf = s.cpf := rfl
@[simp] theorem askedRnd_skipPending : (s.askedRnd).skipPending = s.skipPending := rfl
@[simp] theorem askedRnd_status : (s.askedRnd).status = s.status := rfl
@[simp] theorem askedRnd_idleCount : (s.askedRnd).idleCount = s.idleCount := rfl
@[simp] theorem askedRnd_cyc : (s.askedRnd).cyc = s.cyc := rfl
@[simp] theorem askedRnd_xfOrder : (s.askedRnd).xfOrder = s.xfOrder := rfl
@[simp] theorem askedRnd_keyHold : (s.askedRnd).keyHold = s.keyHold := rfl
@[simp] theorem askedRnd_keyWait : (s.askedRnd).keyWait = s.keyWait := rfl
@[simp] theorem askedRnd_host : (s.askedRnd).host = { s.host with rnds := s.host.rnds.tail, asked := s.host.asked + 1 } := rfl
@[simp] theorem askedRnd_renderOut : (s.askedRnd).renderOut = s.renderOut := rfl

@[simp] theorem askedPoll_mem : (s.askedPoll).mem = s.mem := rfl
@[simp] theorem askedPoll_v : (s.askedPoll).v = s.v := rfl
@[simp] theorem askedPoll_i : (s.askedPoll).i = s.i := rfl
@[simp] theorem askedPoll_pc : (s.askedPoll).pc = s.pc := rfl
@[simp] theorem askedPoll_stack : (s.askedPoll).stack = s.stack := rfl
@[simp] theorem askedPoll_sp : (s.askedPoll).sp = s.sp := rfl
@[simp] theorem askedPoll_dt : (s.askedPoll).dt = s.dt := rfl
@[simp] theorem askedPoll_st : (s.askedPoll).st = s.st := rfl
@[simp] theorem askedPoll_disp : (s.askedPoll).disp = s.disp := rfl
@[simp] theorem askedPoll_renderPending : (s.askedPoll).renderPending = s.renderPending := rfl
@[simp] theorem askedPoll_key : (s.askedPoll).key = s.key := rfl
@[simp] theorem askedPoll_q : (s.askedPoll).q = s.q := rfl
@[simp] theorem askedPoll_cpf : (s.askedPoll).cpf = s.cpf := rfl
@[simp] theorem askedPoll_skipPending : (s.askedPoll).skipPending = s.skipPending := rfl
@[simp] theorem askedPoll_status : (s.askedPoll).status = s.status := rfl
@[simp] theorem askedPoll_idleCount : (s.askedPoll).idleCount = s.idleCount := rfl
@[simp] theorem askedPoll_cyc : (s.askedPoll).cyc = s.cyc := rfl
@[simp] theorem askedPoll_xfOrder : (s.askedPoll).xfOrder = s.xfOrder := rfl
@[simp] theorem askedPoll_keyHold : (s.askedPoll).keyHold = s.keyHold := rfl
@[simp] theorem askedPoll_keyWait : (s.askedPoll).keyWait = s.keyWait := rfl
@[simp] theorem askedPoll_host : (s.askedPoll).host = { s.host with polls := s.host.polls.tail, asked := s.host.asked + 1 } := rfl
@[simp] theorem askedPoll_renderOut : (s.askedPoll).renderOut = s.renderOut := rfl

@[simp] theorem askedWait_mem : (s.askedWait).mem = s.mem := rfl
@[simp] theorem askedWait_v : (s.askedWait).v = s.v := rfl
@[simp] theorem askedWait_i : (s.askedWait).i = s.i := rfl
@[simp] theorem askedWait_pc : (s.askedWait).pc = s.pc := rfl
@[simp] theorem askedWait_stack : (s.askedWait).stack = s.stack := rfl
@[simp] theorem askedWait_sp : (s.askedWait).sp = s.sp := rfl
@[simp] theorem askedWait_dt : (s.askedWait).dt = s.dt := rfl
@[simp] theorem askedWait_st : (s.askedWait).st = s.st := rfl
@[simp] theorem askedWait_disp : (s.askedWait).disp = s.disp := rfl
@[simp] theorem askedWait_renderPending : (s.askedWait).renderPending = s.renderPending := rfl
@[simp] theorem askedWait_key : (s.askedWait).key = s.key := rfl
@[simp] theorem askedWait_q : (s.askedWait).q = s.q := rfl
@[simp] theorem askedWait_cpf : (s.askedWait).cpf = s.cpf := rfl
@[simp] theorem askedWait_skipPending : (s.askedWait).skipPending = s.skipPending := rfl
@[simp] theorem askedWait_status : (s.askedWait).status = s.status := rfl
@[simp] theorem askedWait_idleCount : (s.askedWait).idleCount = s.idleCount := rfl
@[simp] theorem askedWait_cyc : (s.askedWait).cyc = s.cyc := rfl
@[simp] theorem askedWait_xfOrder : (s.askedWait).xfOrder = s.xfOrder := rfl
@[simp] theorem askedWait_keyHold : (s.askedWait).keyHold = s.keyHold := rfl
@[simp] theorem askedWait_keyWait : (s.askedWait).keyWait = s.keyWait := rfl
@[simp] theorem askedWait_host : (s.askedWait).host = { s.host with waits := s.host.waits.tail, asked := s.host.asked + 1 } := rfl
@[simp] theorem askedWait_renderOut : (s.askedWait).renderOut = s.renderOut := rfl

@[simp] theorem halt_mem (r : Fatal) : (s.halt r).mem = s.mem := rfl
@[simp] theorem halt_v (r : Fatal) : (s.halt r).v = s.v := rfl
@[simp] theorem halt_i (r : Fatal) : (s.halt r).i = s.i := rfl
@[simp] theorem halt_pc (r : Fatal) : (s.halt r).pc = s.pc := rfl
@[simp] theorem halt_stack (r : Fatal) : (s.halt r).stack = s.stack := rfl
@[simp] theorem halt_sp (r : Fatal) : (s.halt r).sp = s.sp := rfl
@[simp] theorem halt_dt (r : Fatal) : (s.halt r).dt = s.dt := rfl
@[simp] theorem halt_st (r : Fatal) : (s.halt r).st = s.st := rfl
@[simp] theorem halt_disp (r : Fatal) : (s.halt r).disp = s.disp := rfl
@[simp] theorem halt_renderPending (r : Fatal) : (s.halt r).renderPending = s.renderPending := rfl
@[simp] theorem halt_key (r : Fatal) : (s.halt r).key = s.key := rfl
@[simp] theorem halt_q (r : Fatal) : (s.halt r).q = s.q := rfl
@[simp] theorem halt_cpf (r : Fatal) : (s.halt r).cpf = s.cpf := rfl
@[simp] theorem halt_skipPending (r : Fatal) : (s.halt r).skipPending = s.skipPending := rfl
@[simp] theorem halt_status (r : Fatal) : (s.halt r).status = .halted r := rfl
@[simp] theorem halt_idleCount (r : Fatal) : (s.halt r).idleCount = s.idleCount := rfl
@[simp] theorem halt_cyc (r : Fatal) : (s.halt r).cyc = s.cyc := rfl
@[simp] theorem halt_xfOrder (r : Fatal) : (s.halt r).xfOrder = s.xfOrder := rfl
@[simp] theorem halt_keyHold (r : Fatal) : (s.halt r).keyHold = s.keyHold := rfl
@[simp] theorem halt_keyWait (r : Fatal) : (s.halt r).keyWait = s.keyWait := rfl
@[simp] theorem halt_host (r : Fatal) : (s.halt r).host = s.host := rfl
@[simp] theorem halt_renderOut (r : Fatal) : (s.halt r).renderOut = s.renderOut := rfl

@[simp] theorem exit_mem : (s.exit).mem = s.mem := rfl
@[simp] theorem exit_v : (s.exit).v = s.v := rfl
@[simp] theorem exit_i : (s.exit).i = s.i := rfl
@[simp] theorem exit_pc : (s.exit).pc = s.pc := rfl
@[simp] theorem exit_stack : (s.exit).stack = s.stack := rfl
@[simp] theorem exit_sp : (s.exit).sp = s.sp := rfl
@[simp] theorem exit_dt : (s.exit).dt = s.dt := rfl
@[simp] theorem exit_st : (s.exit).st = s.st := rfl
@[simp] theorem exit_disp : (s.exit).disp = s.disp := rfl
@[simp] theorem exit_renderPending : (s.exit).renderPending = s.renderPending := rfl
@[simp] theorem exit_key : (s.exit).key = s.key := rfl
@[simp] theorem exit_q : (s.exit).q = s.q := rfl
@[simp] theorem exit_cpf : (s.exit).cpf = s.cpf := rfl
@[simp] theorem exit_skipPending : (s.exit).skipPending = s.skipPending := rfl
@[simp] theorem exit_status : (s.exit).status = .exited := rfl
@[simp] theorem exit_idleCount : (s.exit).idleCount = s.idleCount := rfl
@[simp] theorem exit_cyc : (s.exit).cyc = s.cyc := rfl
@[simp] theorem exit_xfOrder : (s.exit).xfOrder = s.xfOrder := rfl
@[simp] theorem exit_keyHold : (s.exit).keyHold = s.keyHold := rfl
@[simp] theorem exit_keyWait : (s.exit).keyWait = none := rfl
@[simp] theorem exit_host : (s.exit).host = s.host := rfl
@[simp] theorem exit_renderOut : (s.exit).renderOut = s.renderOut := rfl

end Sys2Proof.Machine
end

