-- ==== Sys2Proof/Laws/Draw.lean ====
section
/-! SUPPORT. The display operations cell by cell. -/

namespace Sys2Proof.Machine

/-- A flip changes its own cell and no other (R211). -/
theorem Display.get_flip (d : Display) (r c r' c' : Nat) :
    Display.get (Display.flip d r c) r' c' =
      if r % 32 = r' % 32 ∧ c % 64 = c' % 64 then !Display.get d r' c' else Display.get d r' c' := by
  unfold Display.flip Display.get
  rw [Vector.getElem_set]
  by_cases hr : r % 32 = r' % 32
  · simp only [hr, true_and, if_true, Vector.getElem_set]
    by_cases hc : c % 64 = c' % 64 <;> simp [hc]
  · simp [hr]

@[simp] theorem Display.get_blank (r c : Nat) : Display.get Display.blank r c = false := by
  simp [Display.get, Display.blank]

/-- Cells are named modulo 32 and 64 (R77). -/
theorem Display.get_mod (d : Display) (r c : Nat) : Display.get d (r % 32) (c % 64) = Display.get d r c := by
  simp [Display.get]

theorem Display.ext_cells {d e : Display} (h : ∀ r < 32, ∀ c < 64, Display.get d r c = Display.get e r c) : d = e := by
  refine Vector.ext fun r hr => Vector.ext fun c hc => ?_
  have := h r hr c hc
  simpa [Display.get, Nat.mod_eq_of_lt hr, Nat.mod_eq_of_lt hc] using this

/-! ## One sprite row (R211) -/

/-- One column of a sprite row flips its cell iff its bit is set, and no other (R211). -/
theorem get_drawBit (b : Byte) (r x0 col : Nat) (acc : Display × Bool) (R C : Nat) (hR : R < 32) (hC : C < 64) :
    Display.get (drawBit b r x0 acc col).1 R C =
      xor (Display.get acc.1 R C) (b.getLsbD (7 - col) && decide (r % 32 = R) && decide ((x0 + col) % 64 = C)) := by
  unfold drawBit
  split <;> rename_i h
  · rw [Display.get_flip, Nat.mod_eq_of_lt hR, Nat.mod_eq_of_lt hC, h]
    by_cases h1 : r % 32 = R <;> by_cases h2 : (x0 + col) % 64 = C <;> simp [h1, h2]
  · simp only [Bool.not_eq_true] at h; simp [h]

/-- One column collides iff its bit is set and falls on a set cell (R211). -/
theorem collision_drawBit (b : Byte) (r x0 col : Nat) (acc : Display × Bool) :
    (drawBit b r x0 acc col).2 = (acc.2 || (b.getLsbD (7 - col) && Display.get acc.1 r (x0 + col))) := by
  unfold drawBit; split <;> rename_i h
  · simp [h]
  · simp only [Bool.not_eq_true] at h; simp [h]

/-- Cell by cell what the first `n` columns of a sprite row leave (R211). -/
theorem get_drawColumns (b : Byte) (r x0 : Nat) (R C : Nat) (hR : R < 32) (hC : C < 64) : ∀ n ≤ 8, ∀ acc : Display × Bool,
    Display.get ((List.range n).foldl (drawBit b r x0) acc).1 R C =
      xor (Display.get acc.1 R C) (decide (r % 32 = R) && decide ((C + 64 - x0 % 64) % 64 < n) && b.getLsbD (7 - (C + 64 - x0 % 64) % 64)) := by
  intro n
  induction n with
  | zero => intro _ acc; simp
  | succ n ih =>
    intro hn acc
    rw [List.range_succ, List.foldl_append]
    simp only [List.foldl_cons, List.foldl_nil]
    rw [get_drawBit _ _ _ _ _ _ _ hR hC, ih (by omega)]
    have h64 : (x0 + n) % 64 = C ↔ (C + 64 - x0 % 64) % 64 = n := by omega
    by_cases h1 : r % 32 = R
    · simp only [h1, h64, decide_true, Bool.true_and, Bool.and_true]
      by_cases h2 : (C + 64 - x0 % 64) % 64 = n
      · simp [h2]
      · have : ((C + 64 - x0 % 64) % 64 < n + 1) ↔ ((C + 64 - x0 % 64) % 64 < n) := by omega
        simp [h2, this]
    · simp [h1]
/-- Whether the first `n` columns of a sprite row collide: none meets a cell that an earlier one flipped (R211 (d)). -/
theorem collision_drawColumns (b : Byte) (r x0 : Nat) : ∀ n ≤ 8, ∀ acc : Display × Bool,
    (((List.range n).foldl (drawBit b r x0) acc).2 = true ↔
      acc.2 = true ∨ ∃ col < n, b.getLsbD (7 - col) = true ∧ Display.get acc.1 r (x0 + col) = true) := by
  intro n
  induction n with
  | zero => intro _ acc; simp
  | succ n ih =>
    intro hn acc
    rw [List.range_succ, List.foldl_append]
    simp only [List.foldl_cons, List.foldl_nil]
    rw [collision_drawBit, Bool.or_eq_true, ih (by omega), Bool.and_eq_true]
    have e : Display.get ((List.range n).foldl (drawBit b r x0) acc).1 r (x0 + n) = Display.get acc.1 r (x0 + n) := by
      rw [← Display.get_mod, get_drawColumns b r x0 _ _ (Nat.mod_lt _ (by decide)) (Nat.mod_lt _ (by decide)) n (by omega), Display.get_mod]
      have : ¬ (((x0 + n) % 64 + 64 - x0 % 64) % 64 < n) := by omega
      simp [this]
    rw [e]
    constructor
    · rintro ((h | ⟨c, hc, h⟩) | h)
      · exact .inl h
      · exact .inr ⟨c, by omega, h⟩
      · exact .inr ⟨n, by omega, h⟩
    · rintro (h | ⟨c, hc, h⟩)
      · exact .inl (.inl h)
      · rcases Nat.lt_succ_iff_lt_or_eq.1 hc with hc | rfl
        · exact .inl (.inr ⟨c, hc, h⟩)
        · exact .inr h

end Sys2Proof.Machine
end

