-- ==== Sys2Proof/Laws/Encoding.lean ====
section
/-! SUPPORT. The bits of a word assembled from its fields (30_encoding.md R91, R92), and the fields of such a word. -/

namespace Sys2Proof

/-- Format `A`: op, nnn. -/
theorem getLsbD_formatA (op : Nibble) (nnn : Addr) (i : Nat) :
    BitVec.getLsbD (w := 16) (op ++ nnn) i = if i < 12 then nnn.getLsbD i else op.getLsbD (i - 12) :=
  BitVec.getLsbD_append

/-- Formats `XK` and `X`: op, x, kk. -/
theorem getLsbD_formatXK (op x : Nibble) (kk : Byte) (i : Nat) :
    BitVec.getLsbD (w := 16) (op ++ x ++ kk) i =
      if i < 8 then kk.getLsbD i else if i - 8 < 4 then x.getLsbD (i - 8) else op.getLsbD (i - 8 - 4) := by
  refine (BitVec.getLsbD_append (x := op ++ x) (y := kk)).trans ?_
  rw [BitVec.getLsbD_append]

/-- Formats `XY` and `XYN`: op, x, y, n. -/
theorem getLsbD_formatXYN (op x y n : Nibble) (i : Nat) :
    BitVec.getLsbD (w := 16) (op ++ x ++ y ++ n) i =
      if i < 4 then n.getLsbD i else if i - 4 < 4 then y.getLsbD (i - 4)
        else if i - 4 - 4 < 4 then x.getLsbD (i - 4 - 4) else op.getLsbD (i - 4 - 4 - 4) := by
  refine (BitVec.getLsbD_append (x := op ++ x ++ y) (y := n)).trans ?_
  rw [BitVec.getLsbD_append, BitVec.getLsbD_append]

@[simp] theorem opField_formatA (op : Nibble) (nnn : Addr) : opField (op ++ nnn) = op := by
  apply BitVec.eq_of_getLsbD_eq; intro i hi
  simp only [opField, BitVec.getLsbD_extractLsb', getLsbD_formatA]
  interval_cases i <;> simp

@[simp] theorem nnnField_formatA (op : Nibble) (nnn : Addr) : nnnField (op ++ nnn) = nnn := by
  apply BitVec.eq_of_getLsbD_eq; intro i hi
  simp only [nnnField, BitVec.getLsbD_extractLsb', getLsbD_formatA]
  interval_cases i <;> simp

@[simp] theorem opField_formatXK (op x : Nibble) (kk : Byte) : opField (op ++ x ++ kk) = op := by
  apply BitVec.eq_of_getLsbD_eq; intro i hi
  simp only [opField, BitVec.getLsbD_extractLsb', getLsbD_formatXK]
  interval_cases i <;> simp

@[simp] theorem xField_formatXK (op x : Nibble) (kk : Byte) : xField (op ++ x ++ kk) = x := by
  apply BitVec.eq_of_getLsbD_eq; intro i hi
  simp only [xField, BitVec.getLsbD_extractLsb', getLsbD_formatXK]
  interval_cases i <;> simp

@[simp] theorem kkField_formatXK (op x : Nibble) (kk : Byte) : kkField (op ++ x ++ kk) = kk := by
  apply BitVec.eq_of_getLsbD_eq; intro i hi
  simp only [kkField, BitVec.getLsbD_extractLsb', getLsbD_formatXK]
  interval_cases i <;> simp

@[simp] theorem opField_formatXYN (op x y n : Nibble) : opField (op ++ x ++ y ++ n) = op := by
  apply BitVec.eq_of_getLsbD_eq; intro i hi
  simp only [opField, BitVec.getLsbD_extractLsb', getLsbD_formatXYN]
  interval_cases i <;> simp

@[simp] theorem xField_formatXYN (op x y n : Nibble) : xField (op ++ x ++ y ++ n) = x := by
  apply BitVec.eq_of_getLsbD_eq; intro i hi
  simp only [xField, BitVec.getLsbD_extractLsb', getLsbD_formatXYN]
  interval_cases i <;> simp

@[simp] theorem yField_formatXYN (op x y n : Nibble) : yField (op ++ x ++ y ++ n) = y := by
  apply BitVec.eq_of_getLsbD_eq; intro i hi
  simp only [yField, BitVec.getLsbD_extractLsb', getLsbD_formatXYN]
  interval_cases i <;> simp

@[simp] theorem nField_formatXYN (op x y n : Nibble) : nField (op ++ x ++ y ++ n) = n := by
  apply BitVec.eq_of_getLsbD_eq; intro i hi
  simp only [nField, BitVec.getLsbD_extractLsb', getLsbD_formatXYN]
  interval_cases i <;> simp

/-! A word is its fields laid side by side (R91). -/

theorem word_formatA (w : Word) : (opField w ++ nnnField w : Word) = w := by
  apply BitVec.eq_of_getLsbD_eq; intro i hi
  simp only [opField, nnnField, BitVec.getLsbD_extractLsb', getLsbD_formatA]
  interval_cases i <;> simp

theorem word_formatXK (w : Word) : (opField w ++ xField w ++ kkField w : Word) = w := by
  apply BitVec.eq_of_getLsbD_eq; intro i hi
  simp only [opField, xField, kkField, BitVec.getLsbD_extractLsb', getLsbD_formatXK]
  interval_cases i <;> simp

theorem word_formatXYN (w : Word) : (opField w ++ xField w ++ yField w ++ nField w : Word) = w := by
  apply BitVec.eq_of_getLsbD_eq; intro i hi
  simp only [opField, xField, yField, nField, BitVec.getLsbD_extractLsb', getLsbD_formatXYN]
  interval_cases i <;> simp

/-! Fields as numbers. -/

theorem opField_toNat (w : Word) : (opField w).toNat = w.toNat / 4096 := by
  have := w.isLt
  simp only [opField, BitVec.extractLsb'_toNat, Nat.shiftRight_eq_div_pow]; omega

theorem nField_toNat (w : Word) : (nField w).toNat = w.toNat % 16 := by
  simp [nField, BitVec.extractLsb'_toNat]

theorem kkField_toNat (w : Word) : (kkField w).toNat = w.toNat % 256 := by
  simp [kkField, BitVec.extractLsb'_toNat]

/-- The two bytes of a word make the word again (20_memory.md R64). -/
@[simp] theorem wordOfBytes_hi_lo (w : Word) : wordOfBytes (hiByte w) (loByte w) = w := by
  apply BitVec.eq_of_getLsbD_eq; intro i hi
  refine (BitVec.getLsbD_append (x := hiByte w) (y := loByte w)).trans ?_
  simp only [hiByte, loByte, BitVec.getLsbD_extractLsb']
  split
  · simp [*]
  · rw [show 8 + (i - 8) = i by omega]; simp; omega

end Sys2Proof
end

