-- ==== Sys2Proof/Laws/Memory.lean ====
section
/-! SUPPORT. The laws of memory: a read after a write, and that every memory operation keeps the canonical form. -/

namespace Sys2Proof.Machine

theorem Memory.lookup_insert (m : Memory) (k j : Nat) (v : Byte) :
    Memory.lookup (Memory.insert k v m) j = if k = j then some v else Memory.lookup m j := by
  induction m with
  | nil => simp [Memory.insert, Memory.lookup]
  | cons c rest ih =>
    obtain ⟨a, b⟩ := c
    unfold Memory.insert
    split
    · simp [Memory.lookup]
    · split
      · subst_vars; simp only [Memory.lookup]; split <;> simp_all
      · simp only [Memory.lookup, ih]; split <;> split <;> simp_all

theorem Memory.lookup_erase (m : Memory) (k j : Nat) :
    Memory.lookup (Memory.erase k m) j = if k = j then none else Memory.lookup m j := by
  induction m with
  | nil => simp [Memory.erase, Memory.lookup]
  | cons c rest ih =>
    obtain ⟨a, b⟩ := c
    unfold Memory.erase at ih ⊢
    by_cases h : a = k
    · subst h; simp only [List.filter, bne_self_eq_false, ih, Memory.lookup]; split <;> simp_all
    · have : (a != k) = true := by simpa using h
      simp only [List.filter, this, Memory.lookup, ih]; split <;> split <;> simp_all

theorem Memory.read_write (m : Memory) (a c : Nat) (v : Byte) :
    (m.write a v).read c = if a % Config.memSize = c % Config.memSize then v else m.read c := by
  unfold Memory.write Memory.read
  split
  · rw [Memory.lookup_erase]; split <;> simp_all
  · rw [Memory.lookup_insert]; split <;> simp_all

/-- "`MemWrite(a, 1, v)` sets `mem[a mod 4096] <- v mod 256`" (R62). -/
@[simp] theorem Memory.read_write_same (m : Memory) (a : Nat) (v : Byte) : (m.write a v).read a = v := by
  simp [Memory.read_write]

/-- "... and changes no other cell" (R62). -/
theorem Memory.read_write_other {m : Memory} {a c : Nat} {v : Byte} (h : a % Config.memSize ≠ c % Config.memSize) :
    (m.write a v).read c = m.read c := by
  simp [Memory.read_write, h]

/-- Addresses are reduced modulo 4096 (R62). -/
theorem Memory.read_mod (m : Memory) (a : Nat) : m.read (a % Config.memSize) = m.read a := by
  simp [Memory.read]

theorem Memory.read_congr {m : Memory} {a c : Nat} (h : a % Config.memSize = c % Config.memSize) :
    m.read a = m.read c := by
  rw [← Memory.read_mod m a, h, Memory.read_mod]

/-- An address none of the written cells is reads as before. -/
theorem Memory.read_writeBytes_other {bs : List Byte} : ∀ {m : Memory} {a c : Nat},
    (∀ k < bs.length, (a + k) % Config.memSize ≠ c % Config.memSize) → (m.writeBytes a bs).read c = m.read c := by
  induction bs with
  | nil => intro m a c _; rfl
  | cons b bs ih =>
    intro m a c h
    simp only [Memory.writeBytes]
    rw [ih (fun k hk => by have := h (k + 1) (by simpa using hk); rwa [Nat.add_right_comm, ← Nat.add_assoc] at *),
      Memory.read_write_other (by simpa using h 0 (by simp))]

/-- The `k`-th byte of a block of at most 4096 reads back from the `k`-th cell. -/
theorem Memory.read_writeBytes {bs : List Byte} : ∀ {m : Memory} {a k : Nat} (_ : bs.length ≤ Config.memSize)
    (hk : k < bs.length), (m.writeBytes a bs).read (a + k) = bs[k] := by
  induction bs with
  | nil => intro m a k _ hk; simp at hk
  | cons b bs ih =>
    intro m a k hlen hk
    simp only [Memory.writeBytes]
    simp only [List.length_cons] at hlen hk
    cases k with
    | zero =>
      rw [Memory.read_writeBytes_other]
      · simp
      · intro j hj; simp only [Config.memSize] at *; omega
    | succ k =>
      have := ih (m := m.write a b) (a := a + 1) (k := k) (by omega) (by omega)
      rw [show a + (k + 1) = a + 1 + k by omega, this]; rfl

/-! ## The canonical form is kept -/

theorem Memory.insert_mem {m : Memory} {k : Nat} {v : Byte} {c : Host.Cell} (h : c ∈ Memory.insert k v m) :
    c = (k, v) ∨ c ∈ m := by
  induction m with
  | nil => simpa [Memory.insert] using h
  | cons d rest ih =>
    obtain ⟨a, b⟩ := d
    unfold Memory.insert at h
    split at h
    · simpa using h
    · split at h
      · rcases List.mem_cons.1 h with h | h <;> simp [h]
      · rcases List.mem_cons.1 h with h | h
        · simp [h]
        · rcases ih h with h | h <;> simp [h]

theorem Memory.insert_sorted {m : Memory} {k : Nat} {v : Byte} (h : m.Pairwise (fun c d => c.1 < d.1)) :
    (Memory.insert k v m).Pairwise (fun c d => c.1 < d.1) := by
  induction m with
  | nil => simp [Memory.insert]
  | cons d rest ih =>
    obtain ⟨a, b⟩ := d
    have hh := List.pairwise_cons.1 h
    unfold Memory.insert
    split
    · rename_i hk
      refine List.pairwise_cons.2 ⟨fun c hc => ?_, h⟩
      rcases List.mem_cons.1 hc with rfl | hc
      · exact hk
      · exact Nat.lt_trans hk (hh.1 c hc)
    · split
      · subst_vars; exact List.pairwise_cons.2 ⟨fun c hc => hh.1 c hc, hh.2⟩
      · refine List.pairwise_cons.2 ⟨fun c hc => ?_, ih hh.2⟩
        rcases Memory.insert_mem hc with rfl | hc
        · simp only; omega
        · exact hh.1 c hc

theorem Memory.write_wf {m : Memory} (h : m.wf) (a : Nat) (v : Byte) : (m.write a v).wf := by
  have hlt : a % Config.memSize < Config.memSize := Nat.mod_lt _ (by decide)
  unfold Memory.write
  split
  · exact ⟨h.1.filter _, fun c hc => h.2 c (List.mem_filter.1 hc).1⟩
  · refine ⟨Memory.insert_sorted h.1, fun c hc => ?_⟩
    rcases Memory.insert_mem hc with rfl | hc
    · exact ⟨hlt, by assumption⟩
    · exact h.2 c hc

theorem Memory.writeBytes_wf {bs : List Byte} : ∀ {m : Memory}, m.wf → ∀ a : Nat, (m.writeBytes a bs).wf := by
  induction bs with
  | nil => intro m h _; exact h
  | cons b bs ih => intro m h a; exact ih (Memory.write_wf h a b) (a + 1)

/-- A canonical memory lists exactly the cells that differ from what an unlisted cell reads as. -/
theorem Memory.lookup_of_mem {m : Memory} (h : m.Pairwise (fun c d => c.1 < d.1)) {c : Host.Cell} (hc : c ∈ m) :
    Memory.lookup m c.1 = some c.2 := by
  induction m with
  | nil => simp at hc
  | cons d rest ih =>
    obtain ⟨a, b⟩ := d
    have hh := List.pairwise_cons.1 h
    rcases List.mem_cons.1 hc with rfl | hc
    · simp [Memory.lookup]
    · have := hh.1 c hc
      rw [Memory.lookup, if_neg (by simp only at this; omega)]
      exact ih hh.2 hc

theorem Memory.mem_of_lookup {m : Memory} {k : Nat} {b : Byte} (h : Memory.lookup m k = some b) : (k, b) ∈ m := by
  induction m with
  | nil => simp [Memory.lookup] at h
  | cons d rest ih =>
    obtain ⟨a, c⟩ := d
    rw [Memory.lookup] at h
    split at h
    · rename_i ha; simp only [Option.some.injEq] at h; simp [ha, h]
    · exact List.mem_cons_of_mem _ (ih h)

theorem Memory.mem_iff_read {m : Memory} (h : m.wf) (k : Nat) (b : Byte) :
    (k, b) ∈ m ↔ k < Config.memSize ∧ m.read k = b ∧ b ≠ Memory.unlisted k := by
  constructor
  · intro hc
    have hw := h.2 _ hc
    have := Memory.lookup_of_mem h.1 hc
    exact ⟨hw.1, by simp only at this hw; simp [Memory.read, Nat.mod_eq_of_lt hw.1, this], hw.2⟩
  · rintro ⟨hk, hr, hne⟩
    simp only [Memory.read, Nat.mod_eq_of_lt hk] at hr
    cases hl : Memory.lookup m k with
    | none => rw [hl] at hr; exact absurd hr.symm hne
    | some c => rw [hl] at hr; exact hr ▸ Memory.mem_of_lookup hl

/-- Canonical memories that read the same are the same list: equal memories are equal data. -/
theorem Memory.eq_of_read_eq {m n : Memory} (hm : m.wf) (hn : n.wf) (h : ∀ a, m.read a = n.read a) : m = n := by
  have nodup : ∀ {l : Memory}, l.wf → l.Nodup := fun hl =>
    hl.1.imp (fun hlt e => by rw [e] at hlt; exact Nat.lt_irrefl _ hlt)
  refine List.Perm.eq_of_pairwise (le := fun c d => c.1 < d.1) ?_ hm.1 hn.1
    ((List.perm_ext_iff_of_nodup (nodup hm) (nodup hn)).2 fun c => ?_)
  · intro a b _ _ h1 h2; exact absurd (Nat.lt_trans h1 h2) (Nat.lt_irrefl _)
  · obtain ⟨k, b⟩ := c
    rw [Memory.mem_iff_read hm, Memory.mem_iff_read hn, h k]

theorem Memory.empty_wf : Memory.wf [] := by simp [Memory.wf]

end Sys2Proof.Machine
end

