-- ==== Sys2Proof/Laws/Ops.lean ====
section
/-! SUPPORT. One spec lemma per shared operation: everything it can do, said once. -/

namespace Sys2Proof.Machine

/-! ## Registers -/

theorem reg_setReg (s : State) (x y : Nibble) (b : Byte) : (s.setReg x b).reg y = if y = x then b else s.reg y := by
  simp only [State.reg, setReg_v, Vector.getElem_set, BitVec.toNat_inj, eq_comm]

@[simp] theorem reg_setReg_same (s : State) (x : Nibble) (b : Byte) : (s.setReg x b).reg x = b := by simp [reg_setReg]

theorem reg_setReg_other {s : State} {x y : Nibble} {b : Byte} (h : y ≠ x) : (s.setReg x b).reg y = s.reg y := by
  simp [reg_setReg, h]

theorem setReg_eq (s : State) (x : Nibble) (b : Byte) : s.setReg x b = { s with v := (s.setReg x b).v } := rfl

/-! ## Skip, cycle count -/

theorem consumeSkip_set {s : State} (h : s.skipPending = true) :
    s.consumeSkip = { s with pc := s.pc + 2#16, skipPending := false } := by simp [State.consumeSkip, h]

theorem consumeSkip_clear {s : State} (h : s.skipPending = false) : s.consumeSkip = s := by simp [State.consumeSkip, h]

@[simp] theorem consumeSkip_skipPending (s : State) : s.consumeSkip.skipPending = false := by
  unfold State.consumeSkip; split <;> simp_all

/-- A completed cycle of a running machine is counted, and nothing else happens. -/
theorem countCycle_cases (s : State) :
    (s.status = .running ∧ s.keyWait = none ∧ s.countCycle = { s with cyc := s.cyc + 1 }) ∨
      ((s.status ≠ .running ∨ s.keyWait ≠ none) ∧ s.countCycle = s) := by
  unfold State.countCycle
  split
  · rename_i h1 h2; exact .inl ⟨h1, h2, rfl⟩
  · rename_i h
    refine .inr ⟨?_, rfl⟩
    by_cases h1 : s.status = .running
    · exact .inr fun h2 => h h1 h2
    · exact .inl h1

theorem counted_next {r : Result} {t : State} (h : counted r = .next t) :
    ∃ u, r = .next u ∧ t = u.countCycle := by
  cases r with
  | next u => exact ⟨u, rfl, by simpa [counted] using h.symm⟩
  | fault f => simp [counted] at h
  | refused f => simp [counted] at h

/-- A skip instruction sets the flag where its condition holds and else changes nothing (R140). -/
theorem skipIf_eq (s : State) (c : Bool) : s.skipIf c = if c = true then { s with skipPending := true } else s := by
  unfold State.skipIf; cases c <;> simp

/-! ## Result and flag (R173, R174) -/

theorem flagByte_toNat (c : Bool) : (flagByte c).toNat = if c = true then 1 else 0 := by cases c <;> rfl

theorem writeRF_other {s : State} {x : Nibble} (r f : Byte) (h : x ≠ vf) :
    s.writeRF x r f = (s.setReg x r).setReg vf f := by simp [State.writeRF, h]

theorem writeRF_vf (s : State) (r f : Byte) :
    s.writeRF vf r f = s.setReg vf (match s.xfOrder with | .flagLast => f | .resultLast => r) := by
  simp only [State.writeRF, if_true]; cases s.xfOrder <;> rfl

theorem writeRF_eq (s : State) (x : Nibble) (r f : Byte) : s.writeRF x r f = { s with v := (s.writeRF x r f).v } := by
  unfold State.writeRF; split
  · split <;> rfl
  · rfl

theorem writeLogic_eq (s : State) (x : Nibble) (r : Byte) : s.writeLogic x r = { s with v := (s.writeLogic x r).v } := by
  unfold State.writeLogic; split <;> rfl

/-- Register by register what `write_rf` leaves (R173). -/
theorem reg_writeRF (s : State) (x y : Nibble) (r f : Byte) :
    (s.writeRF x r f).reg y =
      if y = vf then (if x = vf then (match s.xfOrder with | .flagLast => f | .resultLast => r) else f)
      else if y = x then r else s.reg y := by
  by_cases h : x = vf
  · subst h; rw [writeRF_vf, reg_setReg]; simp only [if_true]; split <;> rfl
  · rw [writeRF_other r f h]; simp only [reg_setReg, h, if_false]

/-- The register file `write_rf` leaves, said without a case split on a state (R173). -/
theorem writeRF_v (s : State) (x : Nibble) (r f : Byte) : (s.writeRF x r f).v =
    if x = vf then s.v.set 15 (if s.xfOrder = .flagLast then f else r) else (s.v.set x.toNat r x.isLt).set 15 f := by
  unfold State.writeRF
  by_cases h : x = vf
  · simp only [h, if_true]; split <;> rename_i h2 <;> simp only [h2] <;> rfl
  · simp only [h, if_false]; rfl

/-- The same for a logic operation (R174). -/
theorem writeLogic_v (s : State) (x : Nibble) (r : Byte) : (s.writeLogic x r).v =
    if s.q.vip = true then (s.v.set x.toNat r x.isLt).set 15 0#8 else s.v.set x.toNat r x.isLt := by
  unfold State.writeLogic; split <;> rfl

/-- Register by register what a logic operation leaves (R174). -/
theorem reg_writeLogic (s : State) (x y : Nibble) (r : Byte) :
    (s.writeLogic x r).reg y = if y = vf ∧ s.q.vip = true then 0#8 else if y = x then r else s.reg y := by
  unfold State.writeLogic
  split
  · simp only [reg_setReg, *, and_true]
  · simp only [reg_setReg]; simp_all

/-! ## Block load (R195) -/

theorem loadBlock_eq (s : State) (x : Nibble) : s.loadBlock x = { s with v := (s.loadBlock x).v } := by
  unfold State.loadBlock
  generalize List.range (x.toNat + 1) = ks
  suffices ∀ t : State, t = { s with v := t.v } →
      ks.foldl (fun t k => t.setReg (BitVec.ofNat 4 k) (s.readMem (indexedAddr s k))) t =
        { s with v := (ks.foldl (fun t k => t.setReg (BitVec.ofNat 4 k) (s.readMem (indexedAddr s k))) t).v } from
    this s rfl
  induction ks with
  | nil => intro t ht; exact ht
  | cons k ks ih => intro t ht; exact ih _ (by beta_reduce; rw [ht]; rfl)

theorem reg_loadBlock (s : State) (x y : Nibble) :
    (s.loadBlock x).reg y = if y.toNat ≤ x.toNat then s.readMem (indexedAddr s y.toNat) else s.reg y := by
  have key : ∀ n ≤ 16, ((List.range n).foldl (fun t k => t.setReg (BitVec.ofNat 4 k) (s.readMem (indexedAddr s k))) s).reg y
      = if y.toNat < n then s.readMem (indexedAddr s y.toNat) else s.reg y := by
    intro n
    induction n with
    | zero => intro _; simp
    | succ n ih =>
      intro hn
      rw [List.range_succ, List.foldl_append]
      simp only [List.foldl_cons, List.foldl_nil, reg_setReg, ih (by omega)]
      have hy : y = BitVec.ofNat 4 n ↔ y.toNat = n := by
        rw [← BitVec.toNat_inj, BitVec.toNat_ofNat, Nat.mod_eq_of_lt (by omega)]
      by_cases h : y.toNat = n
      · rw [if_pos (hy.2 h), if_pos (by omega), h]
      · rw [if_neg (fun e => h (hy.1 e))]
        by_cases h2 : y.toNat < n
        · rw [if_pos h2, if_pos (by omega)]
        · rw [if_neg h2, if_neg (by omega)]
  have hx := x.isLt
  have := key (x.toNat + 1) (by omega)
  simp only [Nat.lt_succ_iff] at this
  exact this

/-- The auto-increment touches `I` alone (R194). -/
theorem advanceIndex_eq (s : State) (x : Nibble) :
    s.advanceIndex x = { s with i := if s.q.stq then s.i else s.i + BitVec.ofNat 16 (x.toNat + 1) } := by
  unfold State.advanceIndex State.setI; split <;> rfl

@[simp] theorem regBlock_length (s : State) (x : Nibble) : (regBlock s x).length = x.toNat + 1 := by simp [regBlock]

theorem regBlock_getElem (s : State) (x : Nibble) (k : Nat) (h : k < (regBlock s x).length) :
    (regBlock s x)[k] = s.reg (BitVec.ofNat 4 k) := by simp [regBlock]

/-! ## Keys (R269) -/

/-- No two listed keys share a slot. -/
theorem keyIndex_injective {a b : KeyName} (h : keyIndex a = keyIndex b) : a = b := by
  cases a <;> cases b <;> first | rfl | exact absurd h (by decide)

/-! ## The blocking read (R233) -/

theorem readKey_cases (s : State) (x : Nibble) :
    (∃ k, s.waitAnswer = some (.key k) ∧
        s.readKey x = { s.askedWait.setReg x (keyIndex k).toByte with keyWait := none }) ∨
      (s.waitAnswer = some .esc ∧ s.readKey x = s.askedWait.exit) ∨
      ((s.waitAnswer = none ∨ ∃ c, s.waitAnswer = some (.other c)) ∧
        s.readKey x = { s.askedWait with keyWait := some x }) := by
  unfold State.readKey
  split
  · rename_i k h; exact .inl ⟨k, h, rfl⟩
  · rename_i h; exact .inr (.inl ⟨h, rfl⟩)
  · rename_i c h; exact .inr (.inr ⟨.inr ⟨c, h⟩, rfl⟩)
  · rename_i h; exact .inr (.inr ⟨.inl h, rfl⟩)

/-! ## The poll (R268) -/

theorem pollStep_cases (s : State) :
    (∃ k, s.pollAnswer = some (.key k) ∧ s.pollStep = s.askedPoll.setKeySlot (keyIndex k) s.keyHold) ∨
      (s.pollAnswer = some .esc ∧ s.pollStep = s.askedPoll.exit) ∨
      ((s.pollAnswer = none ∨ ∃ c, s.pollAnswer = some (.other c)) ∧ s.pollStep = s.askedPoll) := by
  unfold State.pollStep
  split
  · rename_i k h; exact .inl ⟨k, h, rfl⟩
  · rename_i h; exact .inr (.inl ⟨h, rfl⟩)
  · rename_i c h; exact .inr (.inr ⟨.inr ⟨c, h⟩, rfl⟩)
  · rename_i h; exact .inr (.inr ⟨.inl h, rfl⟩)

theorem keySlot_setKeySlot (s : State) (k j : Nibble) (n : Nat) :
    (s.setKeySlot k n).keySlot j = if j = k then n else s.keySlot j := by
  simp only [State.keySlot, setKeySlot_key, Vector.getElem_set, BitVec.toNat_inj, eq_comm]

@[simp] theorem getElem_decayKeys (key : Vector Nat 16) (k : Nat) (h : k < 16) : (decayKeys key)[k] = key[k] - 1 := by
  simp [decayKeys]

@[simp] theorem keySlot_agingStep (s : State) (k : Nibble) : s.agingStep.keySlot k = s.keySlot k - 1 := by
  simp [State.keySlot, State.agingStep]

@[simp] theorem keySlot_clear (s : State) (k : Nibble) : s.clearKeysAndTimers.keySlot k = 0 := by
  simp [State.keySlot]

theorem countDown_toNat (b : Byte) : (countDown b).toNat = b.toNat - 1 := by
  unfold countDown
  split
  · simp_all
  · rename_i h
    have : b.toNat ≠ 0 := fun e => h (BitVec.eq_of_toNat_eq e)
    have hb := b.isLt
    rw [BitVec.toNat_sub]; simp; omega

/-! ## Step -/

/-- `whenRunning` answers a next state only for a running machine (R10, R275). -/
theorem whenRunning_next {s t : State} {r : Result} (h : s.whenRunning r = .next t) : s.status = .running ∧ r = .next t := by
  unfold State.whenRunning at h
  split at h
  · exact ⟨by assumption, h⟩
  · simp at h
  · simp at h

/-- Everything a step that answers next can have been: the next read of a key wait, a cycle, or a frame end (R275). -/
theorem machineStep_cases {s t : State} (h : s.machineStep = .next t) :
    s.status = .running ∧ s.cpf ≠ 0 ∧
      ((∃ x, s.keyWait = some x ∧ t = (s.readKey x).countCycle) ∨
        (s.keyWait = none ∧ s.cyc < s.cpf ∧ s.cycle = .next t) ∨
        (s.keyWait = none ∧ s.cpf ≤ s.cyc ∧ t = s.frameEnd)) := by
  obtain ⟨hr, h⟩ := whenRunning_next h
  split at h
  · simp at h
  · rename_i hc
    refine ⟨hr, hc, ?_⟩
    unfold State.schedule at h
    split at h
    · rename_i x hx
      exact .inl ⟨x, hx, by simpa [counted] using h.symm⟩
    · rename_i hw
      split at h
      · exact .inr (.inl ⟨hw, by assumption, h⟩)
      · exact .inr (.inr ⟨hw, by omega, by simpa using h.symm⟩)

/-- Everything a cycle that answers next can have been: a bounds error, a decode error, or an executed instruction (R94). -/
theorem fetchAndExecute_cases {s t : State} (h : s.fetchAndExecute = .next t) :
    (inWindow s.pc = false ∧ t = s.halt (.boundsError s.pc)) ∨
      (inWindow s.pc = true ∧ (∃ e, decode (fetchBytes s.mem s.pc) = .error e) ∧
        t = (s.setPc (s.pc + 2#16)).halt (.decodeError s.pc (fetchWord s.mem s.pc))) ∨
      (inWindow s.pc = true ∧ ∃ i rest, decode (fetchBytes s.mem s.pc) = .ok (i, rest) ∧
        exec i (s.setPc (s.pc + 2#16)) = .next t) := by
  unfold State.fetchAndExecute at h
  split at h
  · rename_i hw
    split at h
    · rename_i i rest hd; exact .inr (.inr ⟨hw, i, rest, hd, h⟩)
    · rename_i e hd; exact .inr (.inl ⟨hw, ⟨e, hd⟩, by simpa using h.symm⟩)
  · rename_i hw; exact .inl ⟨by simpa using hw, by simpa using h.symm⟩

/-- `exec` always answers a next state: no meaning stops (R257: fatal conditions are states, log 6). -/
theorem exec_next (i : Instr) (s : State) : ∃ t, exec i s = .next t := by
  cases i <;> exact ⟨_, rfl⟩

end Sys2Proof.Machine
end

