-- ==== Sys2Proof/Laws/Frame.lean ====
section
/-! SUPPORT. Everything a frame end can do, said once (60_exceptions.md R263 to R270). -/

namespace Sys2Proof.Machine

/-- The render step writes the render flag and the record of frames alone (R265). -/
theorem renderStep_eq (s : State) : s.renderStep = { s with
    renderPending := false, renderOut := if s.renderPending then s.disp.rowMajor :: s.renderOut else s.renderOut } := by
  unfold State.renderStep State.emitFrame
  by_cases h : s.renderPending = true
  · simp [h]
  · rw [if_neg h, if_neg h]; rw [← (Bool.not_eq_true _).mp h]

/-- Render, timers and aging, the part of a frame end before the poll (R265 to R267). -/
theorem beforePoll_eq (s : State) : s.renderStep.timerStep.agingStep = { s with
    renderPending := false, renderOut := if s.renderPending then s.disp.rowMajor :: s.renderOut else s.renderOut,
    dt := countDown s.dt, st := countDown s.st, key := decayKeys s.key } := by
  rw [renderStep_eq]; rfl

theorem endFrame_eq (s : State) : s.endFrame = if s.status = .running then { s with cyc := 0 } else s := by
  unfold State.endFrame
  split <;> rename_i h
  · rw [if_pos h]; rfl
  · rw [if_neg (fun e => h e)]

/-- The three things a frame end of a running machine can be, by the answer of the poll (R268, R275). -/
theorem frameEnd_cases (s : State) (hr : s.status = .running) :
    (∃ k, s.pollAnswer = some (.key k) ∧
        s.frameEnd = { s.renderStep.timerStep.agingStep.askedPoll.setKeySlot (keyIndex k) s.keyHold with cyc := 0 }) ∨
      (s.pollAnswer = some .esc ∧ s.frameEnd = s.renderStep.timerStep.agingStep.askedPoll.exit) ∨
      ((s.pollAnswer = none ∨ ∃ c, s.pollAnswer = some (.other c)) ∧
        s.frameEnd = { s.renderStep.timerStep.agingStep.askedPoll with cyc := 0 }) := by
  have hp : s.renderStep.timerStep.agingStep.pollAnswer = s.pollAnswer := by rw [beforePoll_eq]; rfl
  have hs : s.renderStep.timerStep.agingStep.status = .running := by rw [beforePoll_eq]; exact hr
  have hk : s.renderStep.timerStep.agingStep.keyHold = s.keyHold := by rw [beforePoll_eq]
  unfold State.frameEnd
  rcases pollStep_cases s.renderStep.timerStep.agingStep with ⟨k, h, e⟩ | ⟨h, e⟩ | ⟨h, e⟩ <;> rw [hp] at h
  · refine .inl ⟨k, h, ?_⟩
    rw [e, hk, endFrame_eq, if_pos (by exact hs)]
  · refine .inr (.inl ⟨h, ?_⟩)
    rw [e, endFrame_eq, if_neg (by simp)]
  · refine .inr (.inr ⟨h, ?_⟩)
    rw [e, endFrame_eq, if_pos (by exact hs)]

end Sys2Proof.Machine
end

