-- ==== Sys2Proof/Laws/PerInstr.lean ====
section
/-! SUPPORT. Per instruction: its word matches its own row of the opcode map (30_encoding.md R99: mask and match). -/

namespace Sys2Proof.Laws

/-- The columns "mask" and "match" of R99. -/
def maskMatch : Instr → Word × Word
  | .sys _ => (0xF000#16, 0x0000#16)
  | .cls => (0xFFFF#16, 0x00E0#16)
  | .ret => (0xFFFF#16, 0x00EE#16)
  | .jp _ => (0xF000#16, 0x1000#16)
  | .call _ => (0xF000#16, 0x2000#16)
  | .seImm _ _ => (0xF000#16, 0x3000#16)
  | .sneImm _ _ => (0xF000#16, 0x4000#16)
  | .seReg _ _ => (0xF00F#16, 0x5000#16)
  | .ldImm _ _ => (0xF000#16, 0x6000#16)
  | .addImm _ _ => (0xF000#16, 0x7000#16)
  | .ldReg _ _ => (0xF00F#16, 0x8000#16)
  | .orReg _ _ => (0xF00F#16, 0x8001#16)
  | .andReg _ _ => (0xF00F#16, 0x8002#16)
  | .xorReg _ _ => (0xF00F#16, 0x8003#16)
  | .addReg _ _ => (0xF00F#16, 0x8004#16)
  | .sub _ _ => (0xF00F#16, 0x8005#16)
  | .shr _ _ => (0xF00F#16, 0x8006#16)
  | .subn _ _ => (0xF00F#16, 0x8007#16)
  | .shl _ _ => (0xF00F#16, 0x800E#16)
  | .sneReg _ _ => (0xF00F#16, 0x9000#16)
  | .ldI _ => (0xF000#16, 0xA000#16)
  | .jpV0 _ => (0xF000#16, 0xB000#16)
  | .rnd _ _ => (0xF000#16, 0xC000#16)
  | .drw _ _ _ => (0xF000#16, 0xD000#16)
  | .skp _ => (0xF0FF#16, 0xE09E#16)
  | .sknp _ => (0xF0FF#16, 0xE0A1#16)
  | .ldVxDT _ => (0xF0FF#16, 0xF007#16)
  | .ldVxK _ => (0xF0FF#16, 0xF00A#16)
  | .ldDTVx _ => (0xF0FF#16, 0xF015#16)
  | .ldSTVx _ => (0xF0FF#16, 0xF018#16)
  | .addI _ => (0xF0FF#16, 0xF01E#16)
  | .ldF _ => (0xF0FF#16, 0xF029#16)
  | .ldB _ => (0xF0FF#16, 0xF033#16)
  | .storeRegs _ => (0xF0FF#16, 0xF055#16)
  | .loadRegs _ => (0xF0FF#16, 0xF065#16)

/-- An instruction's word, masked, is its row's match. -/
def TableRow.Statement (i : Instr) : Prop := encode i &&& (maskMatch i).1 = (maskMatch i).2

/-! What each mask leaves of a word of its format. -/

theorem mask_formatA (op : Nibble) (nnn : Addr) : (op ++ nnn : Word) &&& 0xF000#16 = op ++ 0#12 := by
  apply BitVec.eq_of_getLsbD_eq; intro i hi
  simp only [BitVec.getLsbD_and, getLsbD_formatA]; interval_cases i <;> simp

theorem mask_formatXK (op x : Nibble) (kk : Byte) : (op ++ x ++ kk : Word) &&& 0xF000#16 = op ++ 0#4 ++ 0#8 := by
  apply BitVec.eq_of_getLsbD_eq; intro i hi
  simp only [BitVec.getLsbD_and, getLsbD_formatXK]; interval_cases i <;> simp

theorem mask_formatX (op x : Nibble) (kk : Byte) : (op ++ x ++ kk : Word) &&& 0xF0FF#16 = op ++ 0#4 ++ kk := by
  apply BitVec.eq_of_getLsbD_eq; intro i hi
  simp only [BitVec.getLsbD_and, getLsbD_formatXK]; interval_cases i <;> simp

theorem mask_formatXYN (op x y n : Nibble) : (op ++ x ++ y ++ n : Word) &&& 0xF000#16 = op ++ 0#4 ++ 0#4 ++ 0#4 := by
  apply BitVec.eq_of_getLsbD_eq; intro i hi
  simp only [BitVec.getLsbD_and, getLsbD_formatXYN]; interval_cases i <;> simp

theorem mask_formatXY (op x y n : Nibble) : (op ++ x ++ y ++ n : Word) &&& 0xF00F#16 = op ++ 0#4 ++ 0#4 ++ n := by
  apply BitVec.eq_of_getLsbD_eq; intro i hi
  simp only [BitVec.getLsbD_and, getLsbD_formatXYN]; interval_cases i <;> simp

theorem TableRow.sys (nnn : Addr) : TableRow.Statement (.sys nnn) := (mask_formatA _ _).trans rfl
theorem TableRow.cls : TableRow.Statement .cls := rfl
theorem TableRow.ret : TableRow.Statement .ret := rfl
theorem TableRow.jp (nnn : Addr) : TableRow.Statement (.jp nnn) := (mask_formatA _ _).trans rfl
theorem TableRow.call (nnn : Addr) : TableRow.Statement (.call nnn) := (mask_formatA _ _).trans rfl
theorem TableRow.seImm (x : Nibble) (kk : Byte) : TableRow.Statement (.seImm x kk) := (mask_formatXK _ _ _).trans rfl
theorem TableRow.sneImm (x : Nibble) (kk : Byte) : TableRow.Statement (.sneImm x kk) := (mask_formatXK _ _ _).trans rfl
theorem TableRow.seReg (x y : Nibble) : TableRow.Statement (.seReg x y) := (mask_formatXY _ _ _ _).trans rfl
theorem TableRow.ldImm (x : Nibble) (kk : Byte) : TableRow.Statement (.ldImm x kk) := (mask_formatXK _ _ _).trans rfl
theorem TableRow.addImm (x : Nibble) (kk : Byte) : TableRow.Statement (.addImm x kk) := (mask_formatXK _ _ _).trans rfl
theorem TableRow.ldReg (x y : Nibble) : TableRow.Statement (.ldReg x y) := (mask_formatXY _ _ _ _).trans rfl
theorem TableRow.orReg (x y : Nibble) : TableRow.Statement (.orReg x y) := (mask_formatXY _ _ _ _).trans rfl
theorem TableRow.andReg (x y : Nibble) : TableRow.Statement (.andReg x y) := (mask_formatXY _ _ _ _).trans rfl
theorem TableRow.xorReg (x y : Nibble) : TableRow.Statement (.xorReg x y) := (mask_formatXY _ _ _ _).trans rfl
theorem TableRow.addReg (x y : Nibble) : TableRow.Statement (.addReg x y) := (mask_formatXY _ _ _ _).trans rfl
theorem TableRow.sub (x y : Nibble) : TableRow.Statement (.sub x y) := (mask_formatXY _ _ _ _).trans rfl
theorem TableRow.shr (x y : Nibble) : TableRow.Statement (.shr x y) := (mask_formatXY _ _ _ _).trans rfl
theorem TableRow.subn (x y : Nibble) : TableRow.Statement (.subn x y) := (mask_formatXY _ _ _ _).trans rfl
theorem TableRow.shl (x y : Nibble) : TableRow.Statement (.shl x y) := (mask_formatXY _ _ _ _).trans rfl
theorem TableRow.sneReg (x y : Nibble) : TableRow.Statement (.sneReg x y) := (mask_formatXY _ _ _ _).trans rfl
theorem TableRow.ldI (nnn : Addr) : TableRow.Statement (.ldI nnn) := (mask_formatA _ _).trans rfl
theorem TableRow.jpV0 (nnn : Addr) : TableRow.Statement (.jpV0 nnn) := (mask_formatA _ _).trans rfl
theorem TableRow.rnd (x : Nibble) (kk : Byte) : TableRow.Statement (.rnd x kk) := (mask_formatXK _ _ _).trans rfl
theorem TableRow.drw (x y n : Nibble) : TableRow.Statement (.drw x y n) := (mask_formatXYN _ _ _ _).trans rfl
theorem TableRow.skp (x : Nibble) : TableRow.Statement (.skp x) := (mask_formatX _ _ _).trans rfl
theorem TableRow.sknp (x : Nibble) : TableRow.Statement (.sknp x) := (mask_formatX _ _ _).trans rfl
theorem TableRow.ldVxDT (x : Nibble) : TableRow.Statement (.ldVxDT x) := (mask_formatX _ _ _).trans rfl
theorem TableRow.ldVxK (x : Nibble) : TableRow.Statement (.ldVxK x) := (mask_formatX _ _ _).trans rfl
theorem TableRow.ldDTVx (x : Nibble) : TableRow.Statement (.ldDTVx x) := (mask_formatX _ _ _).trans rfl
theorem TableRow.ldSTVx (x : Nibble) : TableRow.Statement (.ldSTVx x) := (mask_formatX _ _ _).trans rfl
theorem TableRow.addI (x : Nibble) : TableRow.Statement (.addI x) := (mask_formatX _ _ _).trans rfl
theorem TableRow.ldF (x : Nibble) : TableRow.Statement (.ldF x) := (mask_formatX _ _ _).trans rfl
theorem TableRow.ldB (x : Nibble) : TableRow.Statement (.ldB x) := (mask_formatX _ _ _).trans rfl
theorem TableRow.storeRegs (x : Nibble) : TableRow.Statement (.storeRegs x) := (mask_formatX _ _ _).trans rfl
theorem TableRow.loadRegs (x : Nibble) : TableRow.Statement (.loadRegs x) := (mask_formatX _ _ _).trans rfl

end Sys2Proof.Laws
end

