-- ==== Sys2Proof/Laws/Reset.lean ====
section
/-! SUPPORT. The calibrator (60_exceptions.md R271, R273) and the reset memory. -/

namespace Sys2Proof.Machine

theorem calGrown_eq (grow : Nat → Nat) (n k : Nat) : calGrown grow n k = grow^[k] n := by
  induction k generalizing n with
  | zero => rfl
  | succ k ih => rw [calGrown, ih]; rfl

/-- Readings of zero elapsed time are retried with a grown count, and the first nonzero one ends the loop (R271). -/
theorem calMeasure_retries (grow : Nat → Nat) (zeros : List (Nat × Nat)) (hz : ∀ r ∈ zeros, r.2 - r.1 = 0)
    (n t0 t1 : Nat) (rest : List (Nat × Nat)) (h : t1 - t0 ≠ 0) :
    calMeasure grow n (zeros ++ (t0, t1) :: rest) = some (grow^[zeros.length] n, t1 - t0) := by
  induction zeros generalizing n with
  | nil => simp [calMeasure, h]
  | cons r zeros ih =>
    have hr : r.2 - r.1 = 0 := hz r (by simp)
    simp only [List.cons_append, calMeasure, hr, if_true, List.length_cons, Function.iterate_succ_apply]
    exact ih (fun q hq => hz q (by simp [hq])) (grow n)

/-- Everything a reset sequence that answers next can have been (R300): a load failure, or a boot with `CPF` and `KEY_HOLD`
positive. -/
theorem resetSequence_cases {cfg : BootConfig} {prog : Option (List Byte)} {fallback : Bool} {readings : List (Nat × Nat)}
    {s : State} (h : resetSequence cfg prog fallback readings = .next s) :
    s = { State.zeroed with status := .halted .loadError } ∨
      ∃ image idle, prog = some image ∧ image ≠ [] ∧ cfg.cpf ≠ 0 ∧ cfg.keyHold ≠ 0 ∧
        calibrate Config.calN0 Config.calGrow Config.calOverhead cfg.cpf fallback readings = some idle ∧
        s = booted cfg image idle := by
  unfold resetSequence at h
  split at h
  · exact .inl (by simpa using h.symm)
  · exact .inl (by simpa using h.symm)
  · rename_i b bs
    split at h
    · simp at h
    · rename_i hc
      split at h
      · simp at h
      · rename_i hk
        split at h
        · simp at h
        · rename_i idle hcal
          exact .inr ⟨_, idle, rfl, by simp, hc, hk, hcal, by simpa using h.symm⟩

/-- "if `per_frame >= CPF + CAL_OVERHEAD` then `idle_count >= 0` without the clamp" (R273): no subtraction is cut off. -/
theorem calIdleCount_unclamped {n e cpf overhead : Nat} (h : cpf + overhead ≤ n / e * 1000 / 60) :
    (calIdleCount n e cpf overhead : Int) = (n / e * 1000 / 60 : Nat) - (cpf : Int) - (overhead : Int) := by
  unfold calIdleCount; omega

/-- The memory a program load leaves is canonical (R302). -/
theorem loadProgram_wf (image : List Byte) : (loadProgram image).wf := Memory.writeBytes_wf Memory.empty_wf _

end Sys2Proof.Machine
end

