-- ==== Sys2Proof/Laws/Step.lean ====
section
/-! SUPPORT. What a step is in each situation (60_exceptions.md R275), said once. -/

namespace Sys2Proof.Machine

theorem step_cycle {s : State} (h : s.CycleDue) : step s = counted s.consumeSkip.fetchAndExecute := by
  obtain ⟨hr, hc, hw, hb⟩ := h
  simp [step, State.machineStep, State.whenRunning, State.schedule, State.cycle, hr, hw, hb, Nat.ne_of_gt hc]

theorem step_frameEnd {s : State} (h : s.FrameEndDue) : step s = .next s.frameEnd := by
  obtain ⟨hr, hc, hw, hb⟩ := h
  simp [step, State.machineStep, State.whenRunning, State.schedule, hr, hw, Nat.not_lt.2 hb, Nat.ne_of_gt hc]

theorem step_keyWait {s : State} {x : Nibble} (hr : s.status = .running) (hc : 0 < s.cpf) (hw : s.keyWait = some x) :
    step s = .next (s.readKey x).countCycle := by
  simp [step, State.machineStep, State.whenRunning, State.schedule, hr, hw, Nat.ne_of_gt hc, counted]

/-- Induction over a run: what holds of its first state and is kept by every move holds of its last (R275). -/
theorem Reaches.of_kept {P : State → Prop} (kept : ∀ (s t : State) (m : Move), P s → s.move m = .next t → P t) {s t : State}
    (hs : P s) (h : Reaches s t) : P t := by
  induction h with
  | refl => exact hs
  | move m _ h ih => exact kept _ _ m ih h

theorem countCycle_eq (s : State) :
    s.countCycle = if s.status = .running ∧ s.keyWait = none then { s with cyc := s.cyc + 1 } else s := by
  rcases countCycle_cases s with ⟨h1, h2, h⟩ | ⟨h1, h⟩
  · rw [h, if_pos ⟨h1, h2⟩]
  · rw [h, if_neg (by rintro ⟨a, b⟩; exact h1.elim (· a) (· b))]

theorem consumeSkip_eq (s : State) :
    s.consumeSkip = { s with pc := if s.skipPending then s.pc + 2#16 else s.pc, skipPending := false } := by
  unfold State.consumeSkip
  split <;> rename_i h
  · rfl
  · rw [← (Bool.not_eq_true _).mp h]

theorem inWindow_iff (a : Word) : inWindow a = true ↔ 0x200 ≤ a.toNat ∧ a.toNat < 0x1000 := by
  simp [inWindow]

theorem decode_two (hi lo : Byte) : decode [hi, lo] =
    match decodeWord (wordOfBytes hi lo) with | .ok i => .ok (i, []) | .error e => .error e := rfl

/-- A cycle inside the window whose word decodes executes that instruction (R94). -/
theorem step_decoded {s : State} {a : Word} {i : Instr} {rest : List Byte} (h : s.CycleDue)
    (ha : a = if s.skipPending then s.pc + 2#16 else s.pc) (hw : inWindow a = true)
    (hd : decode (fetchBytes s.mem a) = .ok (i, rest)) :
    step s = counted (exec i { s with pc := a + 2#16, skipPending := false }) := by
  rw [step_cycle h, consumeSkip_eq, ← ha]
  simp [State.fetchAndExecute, hw, hd, State.setPc]

/-- The fatal conditions of the cycle itself (R251, R252). -/
theorem step_bounds {s : State} {a : Word} (h : s.CycleDue) (ha : a = if s.skipPending then s.pc + 2#16 else s.pc)
    (hw : inWindow a = false) :
    step s = .next { s with pc := a, skipPending := false, status := .halted (.boundsError a) } := by
  rw [step_cycle h, consumeSkip_eq, ← ha]
  simp [State.fetchAndExecute, hw, State.halt, counted, State.countCycle]

theorem step_illegal {s : State} {a : Word} {e : Reject} (h : s.CycleDue)
    (ha : a = if s.skipPending then s.pc + 2#16 else s.pc) (hw : inWindow a = true)
    (hd : decode (fetchBytes s.mem a) = .error e) :
    step s = .next { s with
      pc := a + 2#16, skipPending := false, status := .halted (.decodeError a (fetchWord s.mem a)) } := by
  rw [step_cycle h, consumeSkip_eq, ← ha]
  simp [State.fetchAndExecute, hw, hd, State.halt, State.setPc, counted, State.countCycle]

theorem fetchAddr_eq (s : State) : s.fetchAddr = if s.skipPending then s.pc + 2#16 else s.pc := by
  rw [State.fetchAddr, consumeSkip_eq]

/-- Everything a due cycle can do: a bounds error, a decode error, or the instruction it executes, counted (R94). -/
theorem step_cycle_cases {s t : State} (due : s.CycleDue) (h : step s = .next t) :
    (inWindow s.fetchAddr = false ∧
        t = { s with pc := s.fetchAddr, skipPending := false, status := .halted (.boundsError s.fetchAddr) }) ∨
      (inWindow s.fetchAddr = true ∧ (∃ e, decode (fetchBytes s.mem s.fetchAddr) = .error e) ∧
        t = { s with pc := s.fetchAddr + 2#16, skipPending := false,
                     status := .halted (.decodeError s.fetchAddr (fetchWord s.mem s.fetchAddr)) }) ∨
      ∃ i u, s.Executes i ∧ exec i { s with pc := s.fetchAddr + 2#16, skipPending := false } = .next u ∧ t = u.countCycle := by
  cases hw : inWindow s.fetchAddr
  · rw [step_bounds due (fetchAddr_eq s) hw] at h
    exact .inl ⟨rfl, by simpa using h.symm⟩
  · cases hd : decode (fetchBytes s.mem s.fetchAddr) with
    | error e =>
      rw [step_illegal due (fetchAddr_eq s) hw hd] at h
      exact .inr (.inl ⟨rfl, ⟨e, rfl⟩, by simpa using h.symm⟩)
    | ok p =>
      obtain ⟨i, rest⟩ := p
      rw [step_decoded due (fetchAddr_eq s) hw hd] at h
      obtain ⟨u, hu, e⟩ := counted_next h
      exact .inr (.inr ⟨i, u, ⟨due, hw, rest, hd⟩, hu, e⟩)

end Sys2Proof.Machine
end

