-- ==== Sys2Proof/Tests/Slice0.lean ====
section
/-! SUPPORT. The model's own tests: the WellFormed smoke test, decoding by words written out from the patterns of
30_encoding.md R99, one-step tests from the vectors of 95_test_vectors.md (named in each comment), and a witness for every
statement with hypotheses. -/

namespace Sys2Proof.Tests

open Sys2Proof Sys2Proof.Machine

/-! ## Small states -/

/-- The state of 95_test_vectors.md's conventions: reset, `CPF` = 20, `KEY_HOLD` = 3, no quirk. -/
def base : State := { State.zeroed with pc := 0x200#16, cpf := 20, keyHold := 3 }

/-- `base` with some registers written. -/
def regs (l : List (Nibble × Byte)) : State := l.foldl (fun s p => s.setReg p.1 p.2) base

/-- `s` with some bytes from address `a`. -/
def bytes (s : State) (a : Nat) (l : List Byte) : State := s.setMem (s.mem.writeBytes a l)

/-- The state after one step, `s` itself where the step stops. -/
def next (s : State) : State :=
  match step s with
  | .next t => t
  | .fault _ => s
  | .refused _ => s

/-- The fault or refusal a step stops with. -/
def stop (s : State) : Option (Fault ⊕ Refusal) :=
  match step s with
  | .next _ => none
  | .fault f => some (.inl f)
  | .refused r => some (.inr r)

/-- The state after the one instruction word `w` at the fetch address. -/
def run (s : State) (w : Nat) : State := next (s.withFetchWord 16 w)

def withQ (q : Quirks) (s : State) : State := { s with q := q }
def withSp (n : Fin 1793) (s : State) : State := { s with sp := n }
def withPc (a : Word) (s : State) : State := { s with pc := a }

/-! ## WellFormed smoke test (R98): the two words of family 0 that are not SYS -/

theorem test_wf_refuses_sys_0E0 : Instr.wellFormed (.sys 0x0E0#12) = false := by decide
theorem test_wf_refuses_sys_0EE : Instr.wellFormed (.sys 0x0EE#12) = false := by decide
theorem test_wf_accepts_sys_0E1 : Instr.wellFormed (.sys 0x0E1#12) = true := by decide

/-! ## Decoding: the words of R99 written out, x = 1, y = 2, kk = 0x34, nnn = 0x234 -/

theorem test_decode_flow :
    decodeWord 0x0123#16 = .ok (.sys 0x123#12) ∧ decodeWord 0x00EE#16 = .ok .ret ∧
      decodeWord 0x1234#16 = .ok (.jp 0x234#12) ∧ decodeWord 0x2234#16 = .ok (.call 0x234#12) ∧
      decodeWord 0xB234#16 = .ok (.jpV0 0x234#12) := by decide
theorem test_decode_skip :
    decodeWord 0x3134#16 = .ok (.seImm 1#4 0x34#8) ∧ decodeWord 0x4134#16 = .ok (.sneImm 1#4 0x34#8) ∧
      decodeWord 0x5120#16 = .ok (.seReg 1#4 2#4) ∧ decodeWord 0x9120#16 = .ok (.sneReg 1#4 2#4) ∧
      decodeWord 0xE19E#16 = .ok (.skp 1#4) ∧ decodeWord 0xE1A1#16 = .ok (.sknp 1#4) := by decide
theorem test_decode_immediate :
    decodeWord 0x6134#16 = .ok (.ldImm 1#4 0x34#8) ∧ decodeWord 0x7134#16 = .ok (.addImm 1#4 0x34#8) ∧
      decodeWord 0xC134#16 = .ok (.rnd 1#4 0x34#8) := by decide
theorem test_decode_register :
    decodeWord 0x8120#16 = .ok (.ldReg 1#4 2#4) ∧ decodeWord 0x8121#16 = .ok (.orReg 1#4 2#4) ∧
      decodeWord 0x8122#16 = .ok (.andReg 1#4 2#4) ∧ decodeWord 0x8123#16 = .ok (.xorReg 1#4 2#4) ∧
      decodeWord 0x8124#16 = .ok (.addReg 1#4 2#4) ∧ decodeWord 0x8125#16 = .ok (.sub 1#4 2#4) ∧
      decodeWord 0x8126#16 = .ok (.shr 1#4 2#4) ∧ decodeWord 0x8127#16 = .ok (.subn 1#4 2#4) ∧
      decodeWord 0x812E#16 = .ok (.shl 1#4 2#4) := by decide
theorem test_decode_index_display :
    decodeWord 0xA234#16 = .ok (.ldI 0x234#12) ∧ decodeWord 0x00E0#16 = .ok .cls ∧
      decodeWord 0xD125#16 = .ok (.drw 1#4 2#4 5#4) := by decide
theorem test_decode_F :
    decodeWord 0xF107#16 = .ok (.ldVxDT 1#4) ∧ decodeWord 0xF10A#16 = .ok (.ldVxK 1#4) ∧
      decodeWord 0xF115#16 = .ok (.ldDTVx 1#4) ∧ decodeWord 0xF118#16 = .ok (.ldSTVx 1#4) ∧
      decodeWord 0xF11E#16 = .ok (.addI 1#4) ∧ decodeWord 0xF129#16 = .ok (.ldF 1#4) ∧
      decodeWord 0xF133#16 = .ok (.ldB 1#4) ∧ decodeWord 0xF155#16 = .ok (.storeRegs 1#4) ∧
      decodeWord 0xF165#16 = .ok (.loadRegs 1#4) := by decide
/-- ENC-3 -/
theorem test_decode_family0 :
    decodeWord 0x00E1#16 = .ok (.sys 0x0E1#12) ∧ decodeWord 0x00FE#16 = .ok (.sys 0x0FE#12) ∧
      decodeWord 0x0000#16 = .ok (.sys 0#12) ∧ decodeWord 0x0FFF#16 = .ok (.sys 0xFFF#12) := by decide
/-- ENC-4 to ENC-7 and ENC-9 -/
theorem test_decode_illegal :
    decodeWord 0x512F#16 = .error (.illegal5 0x512F#16) ∧ decodeWord 0x8128#16 = .error (.illegal8 0x8128#16) ∧
      decodeWord 0x812F#16 = .error (.illegal8 0x812F#16) ∧ decodeWord 0x9121#16 = .error (.illegal9 0x9121#16) ∧
      decodeWord 0xE19F#16 = .error (.illegalE 0xE19F#16) ∧ decodeWord 0xF175#16 = .error (.illegalF 0xF175#16) ∧
      decodeWord 0xFFFF#16 = .error (.illegalF 0xFFFF#16) := by decide
/-- ENC-2: the byte order matters. -/
theorem test_decode_bytes : decode [0x25#8, 0xD1#8, 0xAA#8] = .ok (.call 0x5D1#12, [0xAA#8]) := by decide
theorem test_decode_truncated : decode [0x25#8] = .error .truncated := by decide
/-- The table's numbering (`drw` is row 24). -/
theorem test_decode_table : decodeTableWord 16 0xD125 = some (.drw 1#4 2#4 5#4) ∧ decodeTableWord 16 0x5121 = none := by decide

/-! ## Control flow: L2-FLOW -/

/-- FLOW-1 -/
theorem test_sys : (run base 0x0123).pc = 0x202#16 ∧ (run base 0x0123).cyc = 1 := by decide
/-- FLOW-4 -/
theorem test_ret_empty : (run (withPc 0x300#16 base) 0x00EE).pc = 0x302#16 := by decide
/-- FLOW-9, then the entry is popped again -/
theorem test_call : (run (withPc 0x204#16 base) 0x2300).pc = 0x300#16 ∧ (run (withPc 0x204#16 base) 0x2300).sp = 1 := by decide
theorem test_call_ret : (run (run (withPc 0x204#16 base) 0x2300) 0x00EE).pc = 0x206#16 := by decide
/-- FLOW-11 -/
theorem test_call_full : (run (withSp 1792 (withPc 0x204#16 base)) 0x2300).status = .halted (.stackError 0x204#16 0x2300#16) ∧
    (run (withSp 1792 (withPc 0x204#16 base)) 0x2300).pc = 0x206#16 := by decide
/-- FLOW-7, FLOW-8 -/
theorem test_jp : (run base 0x1201).pc = 0x201#16 ∧
    (next (run base 0x1100)).status = .halted (.boundsError 0x100#16) := by decide
/-- FLOW-13, FLOW-14 -/
theorem test_jpV0 : (run (regs [(0#4, 4#8), (2#4, 0x10#8)]) 0xB210).pc = 0x214#16 ∧
    (run (withQ { jmp := true } (regs [(0#4, 4#8), (2#4, 0x10#8)])) 0xB210).pc = 0x220#16 := by decide
/-- FLOW-15 -/
theorem test_jpV0_top : (run (regs [(0#4, 0xFF#8)]) 0xBFFF).pc = 0x10FE#16 := by decide

/-! ## Skips: L2-SKIP -/

/-- SKIP-1, SKIP-2 -/
theorem test_seImm : (run (regs [(3#4, 0x2A#8)]) 0x332A).skipPending = true ∧
    (run (regs [(3#4, 0x2B#8)]) 0x332A).skipPending = false := by decide
/-- SKIP-3, SKIP-4 -/
theorem test_sneImm : (run base 0x4001).skipPending = true ∧ (run base 0x4000).skipPending = false := by decide
/-- SKIP-5, SKIP-6 -/
theorem test_seReg : (run (regs [(1#4, 7#8), (2#4, 7#8)]) 0x5120).skipPending = true ∧
    (run (regs [(1#4, 7#8), (2#4, 8#8)]) 0x5120).skipPending = false := by decide
/-- SKIP-8, SKIP-9 -/
theorem test_sneReg : (run (regs [(1#4, 7#8), (2#4, 8#8)]) 0x9120).skipPending = true ∧
    (run (regs [(3#4, 9#8)]) 0x9330).skipPending = false := by decide
/-- SKIP-11, SKIP-10 -/
theorem test_skp : (run ((regs [(0#4, 0x15#8)]).setKeySlot 5#4 2) 0xE09E).skipPending = true ∧
    (run (regs [(0#4, 0x05#8)]) 0xE09E).skipPending = false := by decide
/-- SKIP-12, SKIP-13 -/
theorem test_sknp : (run (regs [(0#4, 0x05#8)]) 0xE0A1).skipPending = true ∧
    (run ((regs [(0#4, 0x05#8)]).setKeySlot 5#4 1) 0xE0A1).skipPending = false := by decide
/-- SKIP-14: the illegal word at 0x202 is bypassed. -/
theorem test_skip_bypass : (next (run (bytes base 0x202 [0x55#8, 0x51#8, 0x61#8, 0x01#8]) 0x3000)).pc = 0x206#16 ∧
    (next (run (bytes base 0x202 [0x55#8, 0x51#8, 0x61#8, 0x01#8]) 0x3000)).reg 1#4 = 1#8 := by decide
/-- SKIP-18: a skip fetched at 0xFFE and taken. -/
theorem test_skip_top : (next (run (withPc 0xFFE#16 base) 0x3000)).status = .halted (.boundsError 0x1002#16) := by decide

/-! ## Registers: L2-ALU -/

/-- ALU-1 -/
theorem test_ldImm : (run base 0x6A7F).reg 10#4 = 0x7F#8 := by decide
/-- ALU-3, ALU-4 -/
theorem test_addImm : (run (regs [(1#4, 0xFF#8), (15#4, 5#8)]) 0x7101).reg 1#4 = 0#8 ∧
    (run (regs [(1#4, 0xFF#8), (15#4, 5#8)]) 0x7101).reg 15#4 = 5#8 ∧ (run (regs [(15#4, 0xFF#8)]) 0x7F01).reg 15#4 = 0#8 := by decide
/-- ALU-5 -/
theorem test_ldReg : (run (regs [(2#4, 0x33#8)]) 0x8120).reg 1#4 = 0x33#8 := by decide
/-- ALU-6 -/
theorem test_or : (run (regs [(1#4, 0x0F#8), (2#4, 0xF0#8), (15#4, 1#8)]) 0x8121).reg 1#4 = 0xFF#8 ∧
    (run (regs [(1#4, 0x0F#8), (2#4, 0xF0#8), (15#4, 1#8)]) 0x8121).reg 15#4 = 1#8 := by decide
/-- ALU-10 -/
theorem test_or_vip : (run (withQ { vip := true } (regs [(1#4, 0x0F#8), (15#4, 0xF0#8)])) 0x8F11).reg 15#4 = 0#8 := by decide
/-- ALU-7, ALU-8 -/
theorem test_and_xor : (run (regs [(1#4, 0x3C#8), (2#4, 0x0F#8)]) 0x8122).reg 1#4 = 0x0C#8 ∧
    (run (regs [(1#4, 0xFF#8), (2#4, 0x0F#8)]) 0x8123).reg 1#4 = 0xF0#8 := by decide
/-- L1-2, ALU-13 -/
theorem test_add : (run (regs [(1#4, 0xFF#8), (2#4, 1#8)]) 0x8124).reg 1#4 = 0#8 ∧
    (run (regs [(1#4, 0xFF#8), (2#4, 1#8)]) 0x8124).reg 15#4 = 1#8 ∧ (run (regs [(1#4, 0xFF#8), (15#4, 1#8)]) 0x8124).reg 15#4 = 0#8 := by
  decide
/-- ALU-18 under both values of `XF_ORDER` -/
theorem test_add_vf : (run (regs [(1#4, 0x20#8), (15#4, 0xF0#8)]) 0x8F14).reg 15#4 = 1#8 ∧
    (run { regs [(1#4, 0x20#8), (15#4, 0xF0#8)] with xfOrder := .resultLast } 0x8F14).reg 15#4 = 0x10#8 := by decide
/-- L1-3, ALU-20 -/
theorem test_sub : (run (regs [(1#4, 1#8), (2#4, 2#8), (15#4, 1#8)]) 0x8125).reg 1#4 = 0xFF#8 ∧
    (run (regs [(1#4, 1#8), (2#4, 2#8), (15#4, 1#8)]) 0x8125).reg 15#4 = 0#8 ∧
    (run (regs [(1#4, 5#8), (2#4, 5#8)]) 0x8125).reg 15#4 = 1#8 := by decide
/-- ALU-25, ALU-26 -/
theorem test_subn : (run (regs [(1#4, 2#8), (2#4, 1#8)]) 0x8127).reg 1#4 = 0xFF#8 ∧
    (run (regs [(1#4, 1#8), (2#4, 2#8)]) 0x8127).reg 15#4 = 1#8 := by decide
/-- ALU-28 -/
theorem test_shr : (run (regs [(1#4, 0xF0#8), (2#4, 5#8)]) 0x8126).reg 1#4 = 2#8 ∧
    (run (regs [(1#4, 0xF0#8), (2#4, 5#8)]) 0x8126).reg 15#4 = 1#8 ∧
    (run (withQ { lsq := true } (regs [(1#4, 0xF0#8), (2#4, 5#8)])) 0x8126).reg 1#4 = 0x78#8 := by decide
/-- L1-4, ALU-33 -/
theorem test_shl : (run (regs [(1#4, 0x40#8), (2#4, 0x81#8)]) 0x812E).reg 1#4 = 2#8 ∧
    (run (regs [(1#4, 0x40#8), (2#4, 0x81#8)]) 0x812E).reg 15#4 = 1#8 ∧
    (run (withQ { lsq := true } (regs [(1#4, 0x40#8), (2#4, 0x81#8)])) 0x812E).reg 1#4 = 0x80#8 := by decide
/-- ALU-37: the host answers 0xA7. -/
theorem test_rnd : (run { base with host := { rnds := [0xA7#8] } } 0xC30F).reg 3#4 = 7#8 ∧
    (run { base with host := { rnds := [0xA7#8] } } 0xC30F).host.rnds = [] := by decide

/-! ## Address register and memory: L2-IDX -/

/-- IDX-1 -/
theorem test_ldI : (run base 0xA2F0).i = 0x2F0#16 := by decide
/-- IDX-4 -/
theorem test_addI : (run ((regs [(0#4, 2#8), (15#4, 7#8)]).setI 0xFFFF#16) 0xF01E).i = 1#16 ∧
    (run ((regs [(0#4, 2#8), (15#4, 7#8)]).setI 0xFFFF#16) 0xF01E).reg 15#4 = 7#8 := by decide
/-- IDX-6 and the corner case of R192 -/
theorem test_ldF : (run (regs [(2#4, 0x0B#8)]) 0xF229).i = 0xB7#16 ∧ (run (regs [(2#4, 0x1A#8)]) 0xF229).i = 0xB2#16 := by decide
/-- R193: `V[3]` = 254; and the wrap at `I` = 0x0FFF. -/
theorem test_bcd : (run ((regs [(3#4, 0xFE#8)]).setI 0x300#16) 0xF333).readMem 0x301 = 5#8 ∧
    (run ((regs [(3#4, 0xFE#8)]).setI 0xFFF#16) 0xF333).readMem 0x001 = 4#8 := by decide
/-- R194 -/
theorem test_store : (run ((regs [(0#4, 1#8), (3#4, 4#8)]).setI 0x300#16) 0xF355).readMem 0x303 = 4#8 ∧
    (run ((regs [(0#4, 1#8), (3#4, 4#8)]).setI 0x300#16) 0xF355).i = 0x304#16 ∧
    (run (withQ { stq := true } ((regs [(0#4, 1#8)]).setI 0x300#16)) 0xF355).i = 0x300#16 := by decide
/-- R195 -/
theorem test_load : (run (bytes (base.setI 0x300#16) 0x300 [0xAA#8, 0xBB#8, 0xCC#8]) 0xF265).reg 2#4 = 0xCC#8 ∧
    (run (bytes (base.setI 0x300#16) 0x300 [0xAA#8, 0xBB#8, 0xCC#8]) 0xF265).i = 0x303#16 := by decide
/-- Writing what an unlisted cell reads as takes the cell off the list. -/
theorem test_canonical : (bytes base 0x300 [1#8, 2#8]).mem = [(0x300, 1#8), (0x301, 2#8)] ∧
    (bytes (bytes base 0x300 [1#8, 2#8]) 0x300 [0#8]).mem = [(0x301, 2#8)] := by decide

/-! ## Display: L2-DISP -/

/-- DISP-13, in part -/
theorem test_cls : Display.get (run { base with disp := Display.flip Display.blank 31 63 } 0x00E0).disp 31 63 = false ∧
    (run base 0x00E0).renderPending = true := by decide
/-- L1-5 -/
theorem test_drw : Display.get (run (bytes ((regs [(0#4, 62#8)]).setI 0x300#16) 0x300 [0xFF#8]) 0xD011).disp 0 5 = true ∧
    Display.get (run (bytes ((regs [(0#4, 62#8)]).setI 0x300#16) 0x300 [0xFF#8]) 0xD011).disp 0 6 = false := by decide
/-- DISP-10 and DISP-15: the coordinates are sampled before VF is reset, and bit 0 is the rightmost pixel. -/
theorem test_drw_vf : Display.get (run (bytes ((regs [(15#4, 3#8)]).setI 0x300#16) 0x300 [0x01#8]) 0xDFF1).disp 3 10 = true ∧
    (run (bytes ((regs [(15#4, 3#8)]).setI 0x300#16) 0x300 [0x01#8]) 0xDFF1).reg 15#4 = 0#8 := by decide

/-! ## Timers and keys: L2-TK, L2-FRAME -/

/-- TK-1 to TK-3 -/
theorem test_timers : (run (base.setDT 0x3C#8) 0xF507).reg 5#4 = 0x3C#8 ∧ (run (regs [(5#4, 0x3C#8)]) 0xF515).dt = 0x3C#8 ∧
    (run (regs [(1#4, 5#8)]) 0xF118).st = 5#8 := by decide
/-- TK-4: an unrecognised code, then `W`; two reads, two steps, one counted cycle. -/
def waiting : State :=
  run { (base.setDT 9#8).setKeySlot 3#4 2 with host := { waits := [some (.other 0), some (.key .kW)] } } 0xF60A
theorem test_key_wait : waiting.keyWait = some 6#4 ∧ waiting.dt = 0#8 ∧ waiting.keySlot 3#4 = 0 ∧
    waiting.renderOut.length = 1 ∧ waiting.cyc = 0 := by decide
theorem test_key_wait_ends : (next waiting).reg 6#4 = 5#8 ∧ (next waiting).keyWait = none ∧ (next waiting).cyc = 1 ∧
    (next waiting).pc = 0x202#16 := by decide
/-- TK-5 -/
theorem test_key_wait_esc : (run { base with host := { waits := [some .esc] } } 0xF60A).status = .exited := by decide
/-- FRAME-1 step 3, FRAME-2 frame 0: a frame end with `DT` = 3 and a poll that answers `W`. -/
def frameDue : State := { base.setDT 3#8 with cyc := 20, host := { polls := [some (.key .kW), none] } }
theorem test_frame_end : (next frameDue).dt = 2#8 ∧ (next frameDue).st = 0#8 ∧ (next frameDue).cyc = 0 ∧
    (next frameDue).keySlot 5#4 = 3 := by decide
/-- FRAME-4: ESC at the poll; `cyc <- 0` does not happen. -/
theorem test_frame_esc : (next { frameDue with host := { polls := [some .esc] } }).status = .exited ∧
    (next { frameDue with host := { polls := [some .esc] } }).cyc = 20 := by decide
/-- FRAME-5: a frame is exposed only if a render is pending. -/
theorem test_frame_render : (next { frameDue with renderPending := true }).renderOut.length = 1 ∧
    (next frameDue).renderOut = [] := by decide

/-! ## Fatal conditions: L2-FAULT; calibration: L2-CAL -/

/-- L1-8, FAULT-1 -/
theorem test_decode_error : (run base 0x5121).status = .halted (.decodeError 0x200#16 0x5121#16) ∧
    (run base 0x5121).pc = 0x202#16 ∧ stop (run base 0x5121) = some (.inl .machineHalted) := by decide
/-- FAULT-3, FAULT-5, FAULT-6 -/
theorem test_bounds : (next (withPc 0x1FE#16 base)).status = .halted (.boundsError 0x1FE#16) ∧
    (next { withPc 0xFFE#16 base with skipPending := true }).status = .halted (.boundsError 0x1000#16) ∧
    (next { withPc 0x1FE#16 base with skipPending := true }).pc = 0x202#16 := by decide
/-- ENC-11: the second byte of a fetch at 0xFFF comes from 0x000. -/
theorem test_fetch_wrap : (next (bytes (withPc 0xFFF#16 base) 0xFFF [0x23#8])).pc = 0x300#16 := by decide
theorem test_cpf_zero : stop { base with cpf := 0 } = some (.inr .clockFactorZero) := by decide
/-- `KEY_HOLD` = 0 is outside R6. -/
theorem test_keyHold_zero : resetSequence { keyHold := 0 } (some [0x12#8]) false [(100, 104)] = .refused .keyHoldZero := rfl
/-- CAL-1, CAL-3 -/
theorem test_calibrate : calibrate 1000000 (fun n => 2 * n) 100 20 false [(100, 104)] = some 4166546 ∧
    calibrate 100 (fun n => 2 * n) 20 20 false [(0, 50)] = some 0 := by decide
/-- CAL-2, CAL-4 -/
theorem test_calibrate_retry : calibrate 1000000 (fun n => 2 * n) 100 20 false [(100, 100), (100, 103)] = some 11110980 ∧
    calibrate 5000000 (fun n => 2 * n) 100 20 true [(999, 1000)] = some 83213 := by decide

/-! ## Witnesses: a state and operands that meet every hypothesis of a statement, at a boundary value for each clause -/

theorem test_base_due : base.CycleDue := ⟨rfl, by decide, rfl, by decide⟩
/-- The last cycle of a batch, with a skip pending. -/
def lastSkip : State := { base with skipPending := true, cyc := 19 }
theorem test_lastSkip_due : lastSkip.CycleDue := ⟨rfl, by decide, rfl, by decide⟩
theorem test_frameDue_due : frameDue.FrameEndDue := ⟨rfl, by decide, rfl, by decide⟩
/-- The DRW of L1-5 placed at 0x200. -/
def placed : State := bytes base 0x200 [0xD0#8, 0x11#8]

theorem test_witness_DecodeOfEncodeIsIdentity : Instr.wellFormed (.sys 0xFFF#12) = true ∧ Instr.wellFormed (.loadRegs 15#4) = true := by
  decide
theorem test_witness_EncodeOfDecodeIsIdentity : ∃ i, decodeWord 0xFF65#16 = .ok i := ⟨_, rfl⟩
theorem test_witness_StepRunsTheDecodedInstruction : placed.CycleDue ∧ placed.pc = 0x200#16 ∧
    decode [placed.readMem 0x200, placed.readMem 0x201] = .ok (.drw 0#4 1#4 1#4, []) ∧
    ∃ t, exec (.drw 0#4 1#4 1#4) { placed with pc := 0x202#16, skipPending := false } = .next t :=
  ⟨⟨rfl, by decide, rfl, by decide⟩, rfl, by decide, _, rfl⟩
/-- The last address of the window, a skip pending, a frame end due. -/
theorem test_witness_PlacedInstructionRuns :
    ∃ (s t : State) (i : Instr), s.status = .running ∧ 0 < s.cpf ∧ i.wellFormed = true ∧ s.skipPending = true ∧
      s.pc + 2#16 = 0xFFF#16 ∧ s.cpf ≤ s.cyc ∧
      exec i { s.withFetchWord 16 (encode i).toNat with pc := 0xFFF#16 + 2#16, skipPending := false } = .next t :=
  ⟨{ withPc 0xFFD#16 base with skipPending := true, cyc := 20 }, _, .cls, rfl, by decide, rfl, rfl, rfl, by decide, rfl⟩
theorem test_witness_PendingSkipAdvancesWithoutACycle : lastSkip.CycleDue ∧ lastSkip.skipPending = true := ⟨test_lastSkip_due, rfl⟩
theorem test_witness_FetchOutsideTheWindowHalts :
    (withPc 0x1FF#16 base).CycleDue ∧ (withPc 0x1FF#16 base).pc.toNat < 0x200 ∧
      (withPc 0xFFE#16 lastSkip).CycleDue ∧ 0x1000 ≤ ((withPc 0xFFE#16 lastSkip).pc + 2#16).toNat :=
  ⟨test_base_due, by decide, test_lastSkip_due, by decide⟩
theorem test_witness_IllegalWordHalts : (withPc 0xFFF#16 (bytes base 0xFFF [0x51#8, 0x21#8])).CycleDue ∧
    IllegalWord (wordOfBytes ((bytes base 0xFFF [0x51#8, 0x21#8]).readMem 0xFFF) ((bytes base 0xFFF [0x51#8, 0x21#8]).readMem 0x1000)) :=
  ⟨test_base_due, .inl (by decide)⟩
/-- A word of each family of R100, and one legal word at each edge. -/
theorem test_witness_IllegalWord : IllegalWord 0x5001#16 ∧ IllegalWord 0x800F#16 ∧ IllegalWord 0x9FFF#16 ∧ IllegalWord 0xE000#16 ∧
    IllegalWord 0xFFFF#16 ∧ ¬ IllegalWord 0x5FF0#16 ∧ ¬ IllegalWord 0x8FFE#16 ∧ ¬ IllegalWord 0x4FFF#16 := by
  refine ⟨?_, ?_, ?_, ?_, ?_, ?_, ?_, ?_⟩ <;> unfold IllegalWord <;> decide
theorem test_witness_HaltIsFinal : (run base 0x5121).status = .halted (.decodeError 0x200#16 0x5121#16) ∧
    (run { base with host := { waits := [some .esc] } } 0xF60A).status = .exited := by decide
theorem test_witness_OnlyFullCallAndEscEndTheRun :
    (∃ t, exec (.call 0x300#12) (withSp 1792 base) = .next t ∧ t.status ≠ (withSp 1792 base).status) ∧
      ∃ t, exec (.ldVxK 6#4) { base with host := { waits := [some .esc] } } = .next t ∧ t.status ≠ .running :=
  ⟨⟨_, rfl, by decide⟩, _, rfl, by decide⟩
theorem test_witness_CancelExits : base.status = .running := rfl
theorem test_witness_ReturnPopsOrDoesNothing : base.sp.val = 0 ∧ 0 < (withSp 1 base).sp.val ∧ 0 < (withSp 1792 base).sp.val := by decide
theorem test_witness_JumpSetsPc : (0x1FF#12 : Addr).toNat < 0x200 ∧ (base.setPc 0x1FF#16).CycleDue ∧
    (base.setPc 0x1FF#16).skipPending = false := ⟨by decide, test_base_due, rfl⟩
theorem test_witness_CallPushesOrHalts : (withSp 1791 base).sp.val < 1792 ∧ (withSp 1792 base).sp.val = 1792 := by decide
theorem test_witness_KeySkips : (5#4 : Nibble).toNat = ((regs [(0#4, 0x15#8)]).reg 0#4).toNat % 16 := by decide
/-- `x` = 15 under VIP and not, and `x` = 1. -/
theorem test_witness_LogicOperations : (∃ f : Bool → Bool → Bool, Instr.orReg 1#4 2#4 = .orReg 1#4 2#4 ∧ f = or) ∧
    (withQ { vip := true } base).q.vip = true ∧ base.q.vip = false := ⟨⟨or, rfl, rfl⟩, rfl, rfl⟩
theorem test_witness_AddWithCarry : (1#4 : Nibble) ≠ 15#4 ∧ base.xfOrder = .flagLast ∧
    { base with xfOrder := .resultLast }.xfOrder ≠ .flagLast := by decide
/-- `x` = 1, and `x` = 15 under both values of `XF_ORDER` (ALU-24). -/
theorem test_witness_SubtractWithInvertedBorrow :
    (∃ (x y : Nibble) (i : Instr) (a b : Byte), x ≠ 15#4 ∧ i = .subn x y ∧ a = base.reg y ∧ b = base.reg x) ∧
    ∃ (x y : Nibble) (s u : State) (i : Instr) (a b : Byte), x = 15#4 ∧ s.xfOrder = .flagLast ∧ u.xfOrder = .resultLast ∧
      i = .sub x y ∧ a = s.reg x ∧ b = s.reg y ∧ a = u.reg x ∧ b = u.reg y :=
  ⟨⟨1#4, 2#4, _, _, _, by decide, rfl, rfl, rfl⟩,
    15#4, 1#4, regs [(1#4, 3#8), (15#4, 5#8)], { regs [(1#4, 3#8), (15#4, 5#8)] with xfOrder := .resultLast },
    _, _, _, rfl, rfl, rfl, rfl, rfl, rfl, rfl, rfl⟩
/-- `x` = 1, and `x` = 15 under LSQ. -/
theorem test_witness_ShiftsByOne : ∀ x ∈ [(1#4 : Nibble), 15#4], ∃ (s : State) (i : Instr) (src : Byte) (r f : Nat),
    src = (if s.q.lsq then s.reg x else s.reg 2#4) ∧ i = .shl x 2#4 ∧ r = src.toNat * 2 % 256 ∧ f = src.toNat / 128 :=
  fun _ _ => ⟨withQ { lsq := true } base, _, _, _, _, rfl, rfl, rfl, rfl⟩
theorem test_witness_RandomByteUnderMask : ∃ s : State, s.host.rnds = 0xA7#8 :: [] :=
  ⟨{ base with host := { rnds := [0xA7#8] } }, rfl⟩
/-- PROG-6 in small: 0x6233 stored at 0x200, where the next fetch reads. -/
theorem test_witness_StoreIsSeenByTheNextFetch : ∃ s t u : State, Instr.wellFormed (.ldImm 2#4 0x33#8) = true ∧ s.CycleDue ∧
    s.skipPending = false ∧ s.i = s.pc ∧ 0x200 ≤ s.pc.toNat ∧ s.pc.toNat < 0x1000 ∧
    s.reg 0#4 = hiByte (encode (.ldImm 2#4 0x33#8)) ∧ s.reg 1#4 = loByte (encode (.ldImm 2#4 0x33#8)) ∧
    exec (.storeRegs 1#4) s = .next t ∧ exec (.ldImm 2#4 0x33#8) { t with pc := t.pc + 2#16 } = .next u :=
  ⟨(regs [(0#4, 0x62#8), (1#4, 0x33#8)]).setI 0x200#16, _, _, rfl, ⟨rfl, by decide, rfl, by decide⟩, rfl, rfl, by decide, by decide,
    by decide, by decide, rfl, rfl⟩
/-- A cell that is set and hit, and a sprite that hits none. -/
theorem test_witness_DrawMatchesClosedForm :
    (Display.get (bytes { base with disp := Display.flip Display.blank 31 63 } 0x000 [0x80#8]).disp 31 63 = true ∧
      spriteBit ((bytes { base with disp := Display.flip Display.blank 31 63 } 0x000 [0x80#8]).setReg 0#4 63#8 |>.setReg 1#4 31#8)
        0#4 1#4 1#4 31 63 = true) ∧
    ∀ r < 32, ∀ c < 64, Display.get base.disp r c = true → spriteBit base 0#4 1#4 1#4 r c = false := by
  refine ⟨by decide, fun r _ c _ h => ?_⟩
  simp [base, State.zeroed, Display.get] at h
theorem test_witness_DrawingTwiceRestores : ∃ t, (0#4 : Nibble) ≠ 15#4 ∧ (1#4 : Nibble) ≠ 15#4 ∧ exec (.drw 0#4 1#4 1#4) base = .next t :=
  ⟨_, by decide, by decide, rfl⟩
theorem test_witness_KeyWaitClearsAndReads :
    State.waitAnswer { base with host := { waits := [some (.key .kX)] } } = some (.key .kX) ∧
    State.waitAnswer { base with host := { waits := [some .esc] } } = some .esc ∧
    State.waitAnswer { base with host := { waits := [none] } } = none ∧
    State.waitAnswer { base with host := { waits := [some (.other 7)] } } = some (.other 7) := by decide
theorem test_witness_OpenKeyWaitOnlyReads : waiting.status = .running ∧ 0 < waiting.cpf ∧ waiting.keyWait = some 6#4 := by decide
theorem test_witness_FrameEndRenders : frameDue.FrameEndDue ∧ frameDue.renderPending = false := ⟨test_frameDue_due, rfl⟩
/-- Timers at 0 and at 255. -/
theorem test_witness_FrameEndCountsTimers : { frameDue with dt := 0#8, st := 255#8 }.FrameEndDue := test_frameDue_due
theorem test_witness_FrameEndAgesAndPollsKeys : frameDue.FrameEndDue ∧ frameDue.pollAnswer = some (.key .kW) ∧
    State.pollAnswer { frameDue with host := { polls := [none] } } = none ∧
    State.pollAnswer { frameDue with host := { polls := [some .esc] } } = some .esc ∧
    State.pollAnswer { frameDue with host := { polls := [some (.other 0)] } } = some (.other 0) :=
  ⟨test_frameDue_due, by decide, by decide, by decide, by decide⟩
theorem test_witness_FrameEndFrame : frameDue.FrameEndDue := test_frameDue_due
theorem test_witness_CyclesAreCounted : ∃ t, base.CycleDue ∧ step base = .next t := ⟨_, test_base_due, rfl⟩
/-- A frame end that polls `W`, with `CPF` = 1 and `KEY_HOLD` = 1: after one more cycle and a frame end that polls no key the slot
is empty again. -/
def frameDueOne : State := { frameDue with cpf := 1, cyc := 1, keyHold := 1 }
theorem test_witness_run (allowed : Instr → Prop) (polled : KeyAnswer → Prop) (hs : allowed (.sys 0#12)) (hp : polled none) :
    ∃ t u, frameDueOne.FrameEndDue ∧ frameDueOne.pollAnswer = some (.key .kW) ∧ step frameDueOne = .next t ∧
      Run allowed polled t 0 t ∧ Run allowed polled t 1 u ∧ 0 < frameDueOne.keyHold ∧ frameDueOne.keyHold = 1 :=
  ⟨_, _, ⟨rfl, by decide, rfl, by decide⟩, by decide, rfl, .start,
    .frameEnd (.cycle .start ⟨rfl, by decide, rfl, by decide⟩ (fun i h => by
        obtain ⟨-, -, rest, h⟩ := h
        cases h
        exact hs) rfl)
      ⟨rfl, by decide, rfl, by decide⟩ hp rfl, by decide, rfl⟩
/-- Still held at `m` = 0, released at `m` = `KEY_HOLD` = 1. -/
theorem test_witness_KeyIsHeldForKeyHoldFrames : ∃ t u, frameDueOne.FrameEndDue ∧ frameDueOne.pollAnswer = some (.key .kW) ∧
    step frameDueOne = .next t ∧ Run (fun i => ∀ x, i ≠ .ldVxK x) (fun c => c ≠ some (.key .kW)) t 0 t ∧
    Run (fun i => ∀ x, i ≠ .ldVxK x) (fun c => c ≠ some (.key .kW)) t 1 u ∧ 0 < frameDueOne.keyHold ∧ frameDueOne.keyHold = 1 :=
  test_witness_run _ _ (by simp) (by simp)
theorem test_witness_TimerReachesZeroAfterItsValue :
    (∃ s t, Run (fun i => (∀ x, i ≠ .ldVxK x) ∧ ∀ x, i ≠ .ldDTVx x) (fun _ => True) s 1 t) ∧
      ∃ s t, Run (fun i => (∀ x, i ≠ .ldVxK x) ∧ ∀ x, i ≠ .ldSTVx x) (fun _ => True) s 1 t := by
  obtain ⟨t, u, -, -, -, -, h, -⟩ := test_witness_run
    (fun i => (∀ x, i ≠ .ldVxK x) ∧ ∀ x, i ≠ .ldDTVx x) (fun _ => True) (by simp) trivial
  obtain ⟨t', u', -, -, -, -, h', -⟩ := test_witness_run
    (fun i => (∀ x, i ≠ .ldVxK x) ∧ ∀ x, i ≠ .ldSTVx x) (fun _ => True) (by simp) trivial
  exact ⟨⟨t, u, h⟩, t', u', h'⟩
theorem test_witness_RegistersChangeOnlyAsNamed :
    (∃ t, exec (.loadRegs 14#4) base = .next t ∧ Instr.hasDestination 15#4 (.loadRegs 14#4) = false ∧
      Instr.writesVF base.q (.loadRegs 14#4) = false) ∧
    ∃ t, exec (.addReg 1#4 2#4) base = .next t ∧ Instr.hasDestination 2#4 (.addReg 1#4 2#4) = false ∧ (2#4 : Nibble) ≠ 15#4 :=
  ⟨⟨_, rfl, by decide, by decide⟩, _, rfl, by decide, by decide⟩
/-- `Fx55` with `x` = 15 at `I` = 0xFFF stores to 0xFFF and 0x000..0x00E; 0x00F is the first cell it does not store to. -/
theorem test_witness_MemoryChangesOnlyWhereStored : ∃ t, exec (.storeRegs 15#4) (base.setI 0xFFF#16) = .next t ∧
    storesTo (.storeRegs 15#4) (base.setI 0xFFF#16) 0x00E ∧ ¬ storesTo (.storeRegs 15#4) (base.setI 0xFFF#16) 0x00F := by
  refine ⟨_, rfl, ⟨15, by decide, by decide⟩, ?_⟩
  unfold storesTo; decide
theorem test_witness_ControlStateWriters : ∃ t, exec .cls base = .next t ∧ Instr.transfers .cls = false ∧ Instr.skips .cls = false :=
  ⟨_, rfl, rfl, rfl⟩
theorem test_witness_DeviceStateWriters : ∃ t, exec (.ldImm 1#4 2#8) base = .next t := ⟨_, rfl⟩
theorem test_witness_ConfigurationIsLatched : (∃ t, base.move .step = .next t) ∧ ∃ t, base.move .cancel = .next t := ⟨⟨_, rfl⟩, _, rfl⟩
/-- A frame end, where `ST` counts, and a cycle. -/
theorem test_witness_SoundTimerIsUnobservable : (∃ t, step frameDue = .next t) ∧ ∃ t, step base = .next t := ⟨⟨_, rfl⟩, _, rfl⟩
theorem test_witness_CryAndIdleCountHaveNoEffect : ∃ t, step (bytes base 0x200 [0x81#8, 0x24#8]) = .next t := ⟨_, rfl⟩

/-- `base` meets the invariant, and so does a machine inside an `Fx0A`. -/
theorem test_base_inv : base.Inv := by
  refine ⟨by decide, by decide, by decide, by decide, by decide, by decide, by decide, fun j h => ?_, by decide⟩
  exact absurd h (Nat.not_lt_zero j)
theorem test_witness_StepKeepsTheInvariant : ∃ t, base.Inv ∧ step base = .next t := ⟨_, test_base_inv, rfl⟩
theorem test_witness_StepKeepsTheInvariant_waiting : { base with keyWait := some 6#4 }.Inv := by
  refine ⟨by decide, by decide, by decide, by decide, by decide, by decide, by decide, fun j h => ?_, by decide⟩
  exact absurd h (Nat.not_lt_zero j)

/-- A boot whose first clock reading is 4 ms. -/
theorem test_witness_BootedStateIsTheResetTable :
    ∃ t, ([0x12#8, 0x00#8] : List Byte) ≠ [] ∧ resetSequence {} (some [0x12#8, 0x00#8]) false [(100, 104)] = .next t := ⟨_, by decide, rfl⟩
theorem test_witness_ReachableStatesStayWithinBounds : ∃ s t : State, s.Booted ∧ Reaches s t ∧ step s = .next t :=
  ⟨_, _, ⟨{}, some [0x12#8, 0x00#8], false, [(100, 104)], rfl, rfl⟩, .move .step .refl rfl, rfl⟩
theorem test_witness_EmptyImageIsALoadError : ∃ p q : Option (List Byte), p = none ∧ q = some [] := ⟨_, _, rfl, rfl⟩
/-- CAL-2 without the fallback clock; with it, CAL-4 after a reading that spans no second. -/
theorem test_witness_CalibrationUsesTheFirstNonzeroReading :
    (∃ clock : Nat → Nat, (∀ ms, clock ms = if false then ms - ms % 1000 else ms) ∧
      (∀ r ∈ [(100, 100)], clock r.1 = clock r.2) ∧ clock 100 < clock 103) ∧
    ∃ clock : Nat → Nat, (∀ ms, clock ms = if true then ms - ms % 1000 else ms) ∧
      (∀ r ∈ [(100, 999)], clock r.1 = clock r.2) ∧ clock 999 < clock 1000 :=
  ⟨⟨_, fun _ => rfl, by decide, by decide⟩, _, fun _ => rfl, by decide, by decide⟩

end Sys2Proof.Tests
end

namespace Sys2Proof.Machine

/-! ## Halted and Exited are final (R10, R259) -/

theorem whenRunning_of_halted {s : State} {report : Fatal} (h : s.status = .halted report) (r : Result) :
    s.whenRunning r = .fault .machineHalted := by
  simp [State.whenRunning, h]

theorem whenRunning_of_exited {s : State} (h : s.status = .exited) (r : Result) :
    s.whenRunning r = .fault .machineExited := by
  simp [State.whenRunning, h]

/-- Every move passes the guard "requires status = Running" of R275. -/
theorem move_eq_whenRunning (s : State) (m : Move) : ∃ r, s.move m = s.whenRunning r := by
  cases m with
  | step => exact ⟨_, rfl⟩
  | cancel => exact ⟨_, rfl⟩

/-- Settles O10: both moves pass the guard of R275, which answers the named fault in each final status. -/
theorem haltIsFinal : Obligations.HaltIsFinal := by
  intro s m
  obtain ⟨r, hr⟩ := move_eq_whenRunning s m
  rw [hr]
  exact ⟨fun _ h => whenRunning_of_halted h r, fun h => whenRunning_of_exited h r⟩

end Sys2Proof.Machine

namespace Sys2Proof.Machine

/-! ## The bounds of R40 that no type states: key slots and batch count -/

/-- The slots are in 0..`KEY_HOLD`, and the frame's batch has room to count one more cycle (R31, R275). -/
def State.BatchOpen (s : State) : Prop := (∀ k, s.keySlot k ≤ s.keyHold) ∧ s.cyc < s.cpf

/-- What every step boundary keeps of R40. The wait clause is what makes it inductive: the cycle of an open `Fx0A` is counted
only when the wait ends (log 7), so its room in the batch has to last until then. -/
structure State.WithinBounds (s : State) : Prop where
  keys : ∀ k, s.keySlot k ≤ s.keyHold
  cycles : s.cyc ≤ s.cpf
  waiting : s.keyWait ≠ none → s.cyc < s.cpf

theorem State.BatchOpen.withinBounds {s : State} (h : s.BatchOpen) : s.WithinBounds := ⟨h.1, h.2.le, fun _ => h.2⟩

/-- Counting a cycle takes one place of the batch, and an open batch has one (R275). -/
theorem withinBounds_countCycle {s : State} (h : s.BatchOpen) : s.countCycle.WithinBounds := by
  rcases countCycle_cases s with ⟨-, hw, e⟩ | ⟨-, e⟩ <;> rw [e]
  · exact ⟨h.1, h.2, fun wait => absurd hw wait⟩
  · exact h.withinBounds

theorem withinBounds_exit {s : State} (h : s.WithinBounds) : s.exit.WithinBounds :=
  ⟨h.keys, h.cycles, fun wait => absurd rfl wait⟩

theorem batchOpen_writeRF {s : State} (x : Nibble) (r f : Byte) (h : s.BatchOpen) : (s.writeRF x r f).BatchOpen := by
  rw [writeRF_eq]; exact h

theorem batchOpen_writeLogic {s : State} (x : Nibble) (r : Byte) (h : s.BatchOpen) : (s.writeLogic x r).BatchOpen := by
  rw [writeLogic_eq]; exact h

theorem batchOpen_loadBlock {s : State} (x : Nibble) (h : s.BatchOpen) : (s.loadBlock x).BatchOpen := by
  rw [loadBlock_eq]; exact h

theorem batchOpen_advanceIndex {s : State} (x : Nibble) (h : s.BatchOpen) : (s.advanceIndex x).BatchOpen := by
  rw [advanceIndex_eq]; exact h

theorem batchOpen_readKey {s : State} (x : Nibble) (h : s.BatchOpen) : (s.readKey x).BatchOpen := by
  rcases readKey_cases s x with ⟨k, -, e⟩ | ⟨-, e⟩ | ⟨-, e⟩ <;> rw [e] <;> exact h

theorem batchOpen_clearKeysAndTimers {s : State} (h : s.BatchOpen) : s.clearKeysAndTimers.BatchOpen :=
  ⟨fun k => by simp, h.2⟩

/-- No instruction moves the batch count or a limit, and the only one that writes the keypad, `Fx0A`, clears it (R31, R233). -/
theorem batchOpen_exec {i : Instr} {s t : State} (h : exec i s = .next t) (hs : s.BatchOpen) : t.BatchOpen := by
  cases i <;> obtain rfl := Host.Outcome.next.inj h
  case ret | call => split <;> exact hs
  case orReg x _ | andReg x _ | xorReg x _ => exact batchOpen_writeLogic x _ hs
  case addReg x _ | sub x _ | subn x _ | shr x _ | shl x _ => exact batchOpen_writeRF x _ _ hs
  case storeRegs x => exact batchOpen_advanceIndex x hs
  case loadRegs x => exact batchOpen_advanceIndex x (batchOpen_loadBlock x hs)
  case ldVxK x => exact batchOpen_readKey x (batchOpen_clearKeysAndTimers (s := s.emitFrame) hs)
  all_goals exact hs

/-- A cycle begins only in an open batch, so counting it stays within `CPF` (R275). -/
theorem withinBounds_cycle {s t : State} (hs : s.WithinBounds) (due : s.CycleDue) (h : step s = .next t) :
    t.WithinBounds := by
  have ⟨_, _, _, hb⟩ := due
  have room : s.BatchOpen := ⟨hs.keys, hb⟩
  rcases step_cycle_cases due h with ⟨-, rfl⟩ | ⟨-, -, rfl⟩ | ⟨i, u, -, hu, rfl⟩
  · exact State.BatchOpen.withinBounds room
  · exact State.BatchOpen.withinBounds room
  · exact withinBounds_countCycle (batchOpen_exec hu room)

/-- Render, timers and aging: a slot only falls (R265 to R267). -/
theorem withinBounds_beforePoll {s : State} (hs : s.WithinBounds) : s.renderStep.timerStep.agingStep.WithinBounds := by
  have aged (k : Nibble) : s.renderStep.timerStep.agingStep.keySlot k ≤ s.keyHold := by
    rw [keySlot_agingStep, renderStep_eq]
    exact (Nat.sub_le _ _).trans (hs.keys k)
  rw [beforePoll_eq] at aged ⊢
  exact ⟨aged, hs.cycles, hs.waiting⟩

/-- The poll sets at most one slot, to `KEY_HOLD`, and a new batch starts unless the run ends (R268, R275). -/
theorem withinBounds_frameEnd {s : State} (hs : s.WithinBounds) (due : s.FrameEndDue) : s.frameEnd.WithinBounds := by
  obtain ⟨hr, hc, -, -⟩ := due
  have asked : s.renderStep.timerStep.agingStep.askedPoll.WithinBounds :=
    let ⟨keys, cycles, waiting⟩ := withinBounds_beforePoll hs
    ⟨keys, cycles, waiting⟩
  have hold : s.renderStep.timerStep.agingStep.keyHold = s.keyHold := by rw [beforePoll_eq]
  have clock : 0 < s.renderStep.timerStep.agingStep.cpf := by rw [beforePoll_eq]; exact hc
  rcases frameEnd_cases s hr with ⟨k, -, e⟩ | ⟨-, e⟩ | ⟨-, e⟩ <;> rw [e]
  · refine ⟨fun j => ?_, Nat.zero_le _, fun _ => clock⟩
    refine (keySlot_setKeySlot _ (keyIndex k) j s.keyHold).trans_le ?_
    split
    · exact hold.ge
    · exact asked.keys j
  · exact withinBounds_exit asked
  · exact ⟨asked.keys, Nat.zero_le _, fun _ => clock⟩

/-- Every move keeps the bounds. -/
theorem withinBounds_move (s t : State) (m : Move) (hs : s.WithinBounds) (h : s.move m = .next t) : t.WithinBounds := by
  cases m with
  | cancel =>
    obtain ⟨-, e⟩ := whenRunning_next h
    obtain rfl := Host.Outcome.next.inj e
    exact withinBounds_exit hs
  | step =>
    obtain ⟨hr, hc, ⟨x, hw, rfl⟩ | ⟨hw, room, -⟩ | ⟨hw, full, rfl⟩⟩ := machineStep_cases h
    · exact withinBounds_countCycle (batchOpen_readKey x ⟨hs.keys, hs.waiting (by simp [hw])⟩)
    · exact withinBounds_cycle hs ⟨hr, Nat.pos_of_ne_zero hc, hw, room⟩ h
    · exact withinBounds_frameEnd hs ⟨hr, Nat.pos_of_ne_zero hc, hw, full⟩

theorem withinBounds_of_booted {s : State} (h : s.Booted) : s.WithinBounds := by
  obtain ⟨cfg, prog, fallback, readings, hreset, hrun⟩ := h
  rcases resetSequence_cases hreset with rfl | ⟨image, idle, -, -, -, -, -, rfl⟩
  · cases hrun
  · exact ⟨fun k => by simp [State.keySlot, booted, State.zeroed], Nat.zero_le _, fun h => absurd rfl h⟩

/-- Settles O55: the bounds that a type does not give are kept from the boot on by every move. -/
theorem reachableStatesStayWithinBounds : Obligations.ReachableStatesStayWithinBounds := by
  intro s t hs hst
  have ht : t.WithinBounds := hst.of_kept withinBounds_move (withinBounds_of_booted hs)
  exact ⟨fun r => Nat.le_of_lt_succ (t.reg r).isLt, Nat.le_of_lt_succ t.i.isLt, Nat.le_of_lt_succ t.dt.isLt,
    Nat.le_of_lt_succ t.st.isLt, Nat.le_of_lt_succ t.sp.isLt, fun r _ c _ => Bool.eq_false_or_eq_true _ |>.symm,
    ht.keys, ht.cycles⟩

end Sys2Proof.Machine

namespace Sys2Proof.Machine

/-! ## The cycle of a placed word, the worked words of R106, and a pending skip (R94 to R97, R106) -/

/-- The fetch of R97 finds the placed word, its high byte first (R64). -/
theorem fetchBytes_storeAtFetch (s : State) (w : Word) :
    fetchBytes (s.storeAtFetch w).mem s.fetchAddr = [hiByte w, loByte w] := by
  have hi : (s.storeAtFetch w).mem.read (s.fetchAddr.toNat + 0) = hiByte w :=
    Memory.read_writeBytes (by simp [Config.memSize]) (by simp)
  have lo : (s.storeAtFetch w).mem.read (s.fetchAddr.toNat + 1) = loByte w :=
    Memory.read_writeBytes (by simp [Config.memSize]) (by simp)
  rw [fetchBytes, lo, ← hi, Nat.add_zero]

/-- Placing a word makes a cycle due, whatever was due before (log 17). -/
theorem cycleDue_storeAtFetch {s : State} (w : Word) (hr : s.status = .running) (hc : 0 < s.cpf) :
    (s.storeAtFetch w).CycleDue := by
  refine ⟨hr, hc, rfl, ?_⟩
  show (if s.cyc < s.cpf then s.cyc else 0) < s.cpf
  split
  · assumption
  · exact hc

/-- A placed word that decodes is what the next step executes, with `pc` advanced past it and the skip consumed (R94). -/
theorem step_storeAtFetch {s : State} {w : Word} {i : Instr} (hr : s.status = .running) (hc : 0 < s.cpf)
    (hw : inWindow s.fetchAddr = true) (hd : decodeWord w = .ok i) :
    step (s.storeAtFetch w) =
      counted (exec i { s.storeAtFetch w with pc := s.fetchAddr + 2#16, skipPending := false }) := by
  have decoded : decode (fetchBytes (s.storeAtFetch w).mem s.fetchAddr) = .ok (i, []) := by
    rw [fetchBytes_storeAtFetch, decode_two, wordOfBytes_hi_lo, hd]
  exact step_decoded (cycleDue_storeAtFetch w hr hc) (fetchAddr_eq s) hw decoded

@[simp] theorem countCycle_pc (s : State) : s.countCycle.pc = s.pc := by
  rw [countCycle_eq]; split <;> rfl

/-- SYS is a no-op for every address field (R101). -/
theorem exec_sys (nnn : Addr) (s : State) : exec (.sys nnn) s = .next s := rfl

/-- `DRW V1, V2, 5`, the first word of R106. -/
theorem fields_D125 :
    wordOfBytes 0xD1#8 0x25#8 = 0xD125#16 ∧ opField 0xD125#16 = 0xD#4 ∧ xField 0xD125#16 = 1#4 ∧
      yField 0xD125#16 = 2#4 ∧ nField 0xD125#16 = 5#4 ∧ kkField 0xD125#16 = 0x25#8 ∧ nnnField 0xD125#16 = 0x125#12 ∧
      decodeWord 0xD125#16 = .ok (.drw 1#4 2#4 5#4) := by decide

/-- `SYS 0x123`, the second word of R106. -/
theorem fields_0123 :
    wordOfBytes 0x01#8 0x23#8 = 0x0123#16 ∧ opField 0x0123#16 = 0#4 ∧ decodeWord 0x0123#16 = .ok (.sys 0x123#12) := by
  decide

/-- The third word of R106 has the fields of `SE Vx, Vy` but `n` = 1, which R100 makes illegal. -/
theorem fields_5121 :
    wordOfBytes 0x51#8 0x21#8 = 0x5121#16 ∧ opField 0x5121#16 = 5#4 ∧ nField 0x5121#16 = 1#4 ∧
      decodeWord 0x5121#16 = .error (.illegal5 0x5121#16) := by decide

/-- SYS "must ... advance the program counter normally" (R106): the cycle of a placed one leaves `pc` past its two bytes. -/
theorem step_sys_pc {s : State} {w : Word} {nnn : Addr} (hr : s.status = .running) (hc : 0 < s.cpf)
    (hw : inWindow s.fetchAddr = true) (hd : decodeWord w = .ok (.sys nnn)) :
    ∃ t, step (s.storeAtFetch w) = .next t ∧ t.pc = s.fetchAddr + 2#16 := by
  rw [step_storeAtFetch hr hc hw hd, exec_sys]
  exact ⟨_, rfl, countCycle_pc _⟩

/-- Settles O1: the extractions are evaluated, and the step over `0x0123` is that of a placed SYS. -/
theorem fieldExtractionExamples : Obligations.FieldExtractionExamples := by
  obtain ⟨word, op, sys⟩ := fields_0123
  obtain ⟨word', op', n', illegal⟩ := fields_5121
  have stepped : ∃ t, step (State.reset.withFetchWord 16 0x0123) = .next t ∧ t.pc = 0x202#16 :=
    step_sys_pc (s := State.reset) rfl (by decide) (by decide) sys
  exact ⟨fields_D125, ⟨word, op, sys, exec_sys _, stepped⟩, word', op', n', _, illegal⟩

/-- Settles O7: the skip is consumed before anything is fetched, and after that the two machines are the same. -/
theorem pendingSkipAdvancesWithoutACycle : Obligations.PendingSkipAdvancesWithoutACycle := by
  intro s due pending
  have due' : State.CycleDue { s with pc := s.pc + 2#16, skipPending := false } := due
  rw [step_cycle due, step_cycle due', consumeSkip_set pending, consumeSkip_clear rfl]

end Sys2Proof.Machine

namespace Sys2Proof.Machine

/-! ## The machine call and the return (R120, R121) -/

/-- The word of SYS is its address field as a number: the family nibble of SYS is 0 (R99). -/
theorem encode_sys (nnn : Addr) : encode (.sys nnn) = BitVec.ofNat 16 nnn.toNat :=
  BitVec.eq_of_toNat_eq <| (BitVec.toNat_append 0#4 nnn).trans <| by
    have bound : nnn.toNat < 65536 := nnn.isLt.trans (by decide)
    simp [Nat.mod_eq_of_lt bound]

/-- Family 0 is SYS outside the two exact matches, which come first (R98). -/
theorem decodeWord_family0 {w : Word} (op : opField w = 0#4) (cls : w ≠ 0x00E0#16) (ret : w ≠ 0x00EE#16) :
    decodeWord w = .ok (.sys (nnnField w)) := by
  simp [decodeWord, op, cls, ret]

/-- A well-formed SYS has a word of its own, being neither CLS nor RET (R98, R101). -/
theorem decodeWord_encode_sys {nnn : Addr} (cls : nnn ≠ 0x0E0#12) (ret : nnn ≠ 0x0EE#12) :
    decodeWord (encode (.sys nnn)) = .ok (.sys nnn) := by
  have op : opField (encode (.sys nnn)) = 0#4 := opField_formatA _ _
  have field : nnnField (encode (.sys nnn)) = nnn := nnnField_formatA _ _
  have ne (a : Addr) (h : nnn ≠ a) : encode (.sys nnn) ≠ encode (.sys a) := fun e =>
    h (field.symm.trans ((congrArg nnnField e).trans (nnnField_formatA _ _)))
  rw [decodeWord_family0 op (ne 0x0E0#12 cls) (ne 0x0EE#12 ret), field]

/-- Settles O13: SYS answers the state it was given, and of its words only the two exact matches decode to something else. -/
theorem machineCallIsANoOp : Obligations.MachineCallIsANoOp := by
  intro nnn
  rw [← encode_sys]
  refine ⟨exec_sys nnn, fun decoded => ⟨?_, ?_⟩, fun ⟨cls, ret⟩ => decodeWord_encode_sys cls ret⟩
  · rintro rfl
    exact absurd decoded (by decide)
  · rintro rfl
    exact absurd decoded (by decide)

theorem exec_ret_of_empty {s : State} (h : s.sp.val = 0) : exec .ret s = .next s :=
  congrArg Host.Outcome.next (dif_neg h.not_gt)

theorem exec_ret_of_nonempty {s : State} (h : 0 < s.sp.val) : exec .ret s = .next (s.popReturn h) :=
  congrArg Host.Outcome.next (dif_pos h)

/-- The popped `pc` is the entry at the new `sp`, which stays in the stack (R121). -/
theorem stack_popReturn_sp {s : State} (h : 0 < s.sp.val) :
    s.stack[(s.popReturn h).sp.val]? = some (s.popReturn h).pc := by
  rw [popReturn_sp, popReturn_pc, Vector.getElem?_eq_getElem]

/-- Settles O14: RET is the pop where an entry is held, and nothing on an empty stack. -/
theorem returnPopsOrDoesNothing : Obligations.ReturnPopsOrDoesNothing := fun _ =>
  ⟨exec_ret_of_empty, fun held => ⟨_, exec_ret_of_nonempty held, rfl, stack_popReturn_sp held, rfl⟩⟩

end Sys2Proof.Machine

namespace Sys2Proof.Machine

/-! ## Register loads and the logic operations (R160, R162 to R165, R174) -/

theorem exec_ldImm (x : Nibble) (kk : Byte) (s : State) : exec (.ldImm x kk) s = .next (s.setReg x kk) := rfl

theorem exec_ldReg (x y : Nibble) (s : State) : exec (.ldReg x y) s = .next (s.setReg x (s.reg y)) := rfl

/-- Settles O20: both loads are one register write, of `kk` and of `V[y]`. -/
theorem registerLoads : Obligations.RegisterLoads := by
  intro x y kk s
  have written (b : Byte) : (s.setReg x b).reg x = b ∧ (∀ r, r ≠ x → (s.setReg x b).reg r = s.reg r) ∧
      s.setReg x b = { s with v := (s.setReg x b).v } :=
    ⟨reg_setReg_same s x b, fun _ => reg_setReg_other, setReg_eq s x b⟩
  exact ⟨⟨_, exec_ldImm x kk s, written kk⟩, _, exec_ldReg x y s, written (s.reg y)⟩

/-- Each logic operation hands `write_logic` the byte that its Boolean operation gives bit by bit (R163 to R165). -/
theorem exec_logic {x y : Nibble} {i : Instr} {f : Bool → Bool → Bool} (s : State)
    (h : i = .orReg x y ∧ f = or ∨ i = .andReg x y ∧ f = and ∨ i = .xorReg x y ∧ f = xor) :
    ∃ r : Byte, exec i s = .next (s.writeLogic x r) ∧
      ∀ b, r.getLsbD b = f ((s.reg x).getLsbD b) ((s.reg y).getLsbD b) := by
  obtain ⟨rfl, rfl⟩ | ⟨rfl, rfl⟩ | ⟨rfl, rfl⟩ := h
  · exact ⟨s.reg x ||| s.reg y, rfl, fun _ => BitVec.getLsbD_or⟩
  · exact ⟨s.reg x &&& s.reg y, rfl, fun _ => BitVec.getLsbD_and⟩
  · exact ⟨s.reg x ^^^ s.reg y, rfl, fun _ => BitVec.getLsbD_xor⟩

/-- Under VIP the flag write comes last, so VF ends 0 whatever the destination (R174). -/
theorem reg_writeLogic_vf {s : State} (x : Nibble) (r : Byte) (vip : s.q.vip = true) :
    (s.writeLogic x r).reg vf = 0#8 := by
  rw [reg_writeLogic, if_pos ⟨rfl, vip⟩]

/-- The destination holds the result unless it is VF under VIP (R174). -/
theorem reg_writeLogic_same {s : State} {x : Nibble} (r : Byte) (h : ¬(x = vf ∧ s.q.vip = true)) :
    (s.writeLogic x r).reg x = r := by
  rw [reg_writeLogic, if_neg h, if_pos rfl]

theorem reg_writeLogic_other {s : State} {x z : Nibble} (r : Byte) (hz : z ≠ x) (h : ¬(z = vf ∧ s.q.vip = true)) :
    (s.writeLogic x r).reg z = s.reg z := by
  rw [reg_writeLogic, if_neg h, if_neg hz]

/-- Settles O22: the three operations differ in the byte only; where VF is not overwritten it is what `V[x]` holds. -/
theorem logicOperations : Obligations.LogicOperations := by
  intro x y s i f hi
  obtain ⟨r, hexec, bits⟩ := exec_logic s hi
  refine ⟨s.writeLogic x r, hexec, ?_, reg_writeLogic_vf x r, fun z hz kept => ?_, writeLogic_eq s x r⟩
  · refine Classical.or_iff_not_imp_left.mpr fun notFlag b _ => ?_
    rw [reg_writeLogic_same r notFlag, bits]
  · refine reg_writeLogic_other r hz fun ⟨isFlag, vip⟩ => ?_
    rcases kept with notFlag | noVip
    · exact notFlag isFlag
    · simp [vip] at noVip

end Sys2Proof.Machine

namespace Sys2Proof.Machine

/-! ## The load of the address register (R190) -/

/-- Widened with zeros, never sign-extended (R93): 0x800 and above keep their unsigned value too. -/
@[simp] theorem toNat_addr_toWord (a : Addr) : a.toWord.toNat = a.toNat :=
  BitVec.toNat_setWidth_of_le (by decide)

theorem exec_ldI (nnn : Addr) (s : State) : exec (.ldI nnn) s = .next (s.setI nnn.toWord) := rfl

theorem setI_eq (s : State) (w : Word) : s.setI w = { s with i := (s.setI w).i } := rfl

/-- Settles O27: LD I is one write of `I`, and the word written is the field widened with zeros. -/
theorem loadAddressRegister : Obligations.LoadAddressRegister := fun nnn s =>
  ⟨s.setI nnn.toWord, exec_ldI nnn s, toNat_addr_toWord nnn, setI_eq s nnn.toWord⟩

end Sys2Proof.Machine

namespace Sys2Proof.Machine

/-! ## The clear of the display (R210) -/

theorem exec_cls (s : State) : exec .cls s = .next (s.setDisplay Display.blank) := rfl

theorem setDisplay_eq (s : State) (d : Display) :
    s.setDisplay d = { s with disp := (s.setDisplay d).disp, renderPending := (s.setDisplay d).renderPending } := rfl

/-- Settles O33: CLS is one display write, of the blank buffer, whose every cell reads 0. -/
theorem clearDisplay : Obligations.ClearDisplay := fun s =>
  ⟨s.setDisplay Display.blank, exec_cls s, fun r _ c _ => Display.get_blank r c,
    setDisplay_renderPending s Display.blank, setDisplay_eq s Display.blank⟩

end Sys2Proof.Machine

namespace Sys2Proof.Machine

/-! ## The load failure (R303) -/

/-- Neither the configuration nor the clock is looked at: the load fails before either is used. -/
theorem resetSequence_of_no_image (cfg : BootConfig) (fallback : Bool) (readings : List (Nat × Nat))
    {prog : Option (List Byte)} (h : prog = none ∨ prog = some []) :
    resetSequence cfg prog fallback readings = .next { State.zeroed with status := .halted .loadError } := by
  rcases h with absent | empty
  · rw [absent, resetSequence]
  · rw [empty, resetSequence]

/-- Settles O58: the load failure leaves a halted machine, and a halted machine has no step (`haltIsFinal`). -/
theorem emptyImageIsALoadError : Obligations.EmptyImageIsALoadError := by
  intro cfg fallback readings prog hprog
  refine ⟨_, resetSequence_of_no_image cfg fallback readings hprog, rfl, ?_⟩
  exact (haltIsFinal _ .step).1 .loadError rfl

end Sys2Proof.Machine

namespace Sys2Proof

/-! ## The encoding both ways (R92, R98 to R100) -/

/-- The two exact matches of R98 lie in family 0, so a word of another family is neither. -/
theorem not_exact_of_opField {w : Word} (op : opField w ≠ 0#4) : w ≠ 0x00E0#16 ∧ w ≠ 0x00EE#16 :=
  ⟨fun e => op (e ▸ by decide), fun e => op (e ▸ by decide)⟩

theorem not_exact_formatA {op : Nibble} {nnn : Addr} (h : op ≠ 0#4) :
    (op ++ nnn : Word) ≠ 0x00E0#16 ∧ (op ++ nnn : Word) ≠ 0x00EE#16 :=
  not_exact_of_opField (by rwa [opField_formatA])

theorem not_exact_formatXK {op x : Nibble} {kk : Byte} (h : op ≠ 0#4) :
    (op ++ x ++ kk : Word) ≠ 0x00E0#16 ∧ (op ++ x ++ kk : Word) ≠ 0x00EE#16 :=
  not_exact_of_opField (by rwa [opField_formatXK])

theorem not_exact_formatXYN {op x y n : Nibble} (h : op ≠ 0#4) :
    (op ++ x ++ y ++ n : Word) ≠ 0x00E0#16 ∧ (op ++ x ++ y ++ n : Word) ≠ 0x00EE#16 :=
  not_exact_of_opField (by rwa [opField_formatXYN])

/-- The fields of a word in its format are the operands it was laid out from; what is left is the row of the opcode map,
family by family (R99). -/
theorem decodeWord_encode {i : Instr} (h : i.wellFormed = true) : decodeWord (encode i) = .ok i := by
  cases i
  case sys nnn =>
    obtain ⟨cls, ret⟩ : nnn ≠ 0x0E0#12 ∧ nnn ≠ 0x0EE#12 := by simpa [Instr.wellFormed] using h
    exact Machine.decodeWord_encode_sys cls ret
  case cls | ret => decide
  case jp | call | ldI | jpV0 => simp [encode, decodeWord, not_exact_formatA]
  case seImm | sneImm | ldImm | addImm | rnd => simp [encode, decodeWord, not_exact_formatXK]
  case seReg | sneReg | drw => simp [encode, decodeWord, not_exact_formatXYN]
  case ldReg | orReg | andReg | xorReg | addReg | sub | shr | subn | shl =>
    simp [encode, decodeWord, decode8, not_exact_formatXYN]
  case skp | sknp => simp [encode, decodeWord, decodeE, not_exact_formatXK]
  case ldVxDT | ldVxK | ldDTVx | ldSTVx | addI | ldF | ldB | storeRegs | loadRegs =>
    simp [encode, decodeWord, decodeF, not_exact_formatXK]

/-- Settles O2: on words by `decodeWord_encode`, on bytes because the two bytes of a word make the word again. -/
theorem decodeOfEncodeIsIdentity : Obligations.DecodeOfEncodeIsIdentity := by
  intro i h
  refine ⟨decodeWord_encode h, fun rest => ?_⟩
  simp only [encodeBytes, List.cons_append, List.nil_append, decode, wordOfBytes_hi_lo, decodeWord_encode h]

/-! A word with these fixed fields is the word laid out from them and its other fields. -/

theorem eq_formatA {w : Word} {op : Nibble} (hop : opField w = op) : (op ++ nnnField w : Word) = w :=
  hop ▸ word_formatA w

theorem eq_formatXK {w : Word} {op : Nibble} {kk : Byte} (hop : opField w = op) (hkk : kkField w = kk) :
    (op ++ xField w ++ kk : Word) = w := hop ▸ hkk ▸ word_formatXK w

theorem eq_formatXYN {w : Word} {op n : Nibble} (hop : opField w = op) (hn : nField w = n) :
    (op ++ xField w ++ yField w ++ n : Word) = w := hop ▸ hn ▸ word_formatXYN w

theorem encode_of_decode8 {w : Word} {i : Instr} (op : opField w = 0x8#4) (h : decode8 w = .ok i) : encode i = w := by
  unfold decode8 at h
  split at h
  case h_10 => cases h
  all_goals
    rename_i n
    obtain rfl := Except.ok.inj h
    exact eq_formatXYN op (BitVec.eq_of_toNat_eq n)

theorem encode_of_decodeE {w : Word} {i : Instr} (op : opField w = 0xE#4) (h : decodeE w = .ok i) : encode i = w := by
  unfold decodeE at h
  repeat' split at h
  all_goals cases h
  all_goals exact eq_formatXK op ‹_›

theorem encode_of_decodeF {w : Word} {i : Instr} (op : opField w = 0xF#4) (h : decodeF w = .ok i) : encode i = w := by
  unfold decodeF at h
  repeat' split at h
  all_goals cases h
  all_goals exact eq_formatXK op ‹_›

/-- Outside the two exact matches every branch of the decoder fixes the family nibble, and the sub-opcode where it has one,
so the fields it reads make the word again (R98). -/
theorem encode_of_decodeWord {w : Word} {i : Instr} (h : decodeWord w = .ok i) : encode i = w := by
  unfold decodeWord at h
  split at h
  next cls => cases h; exact cls.symm
  split at h
  next ret => cases h; exact ret.symm
  split at h
  case h_9 op => exact encode_of_decode8 (BitVec.eq_of_toNat_eq op) h
  case h_15 op => exact encode_of_decodeE (BitVec.eq_of_toNat_eq op) h
  case h_16 =>
    have op : opField w = 0xF#4 := by
      have := (opField w).isLt
      simp only [imp_false] at *
      exact BitVec.eq_of_toNat_eq (by omega : (opField w).toNat = 0xF)
    exact encode_of_decodeF op h
  case h_6 op | h_10 op =>
    split at h
    next n => cases h; exact eq_formatXYN (BitVec.eq_of_toNat_eq op) n
    next => cases h
  case h_1 op | h_2 op | h_3 op | h_11 op | h_12 op => cases h; exact eq_formatA (BitVec.eq_of_toNat_eq op)
  case h_4 op | h_5 op | h_7 op | h_8 op | h_13 op => cases h; exact eq_formatXK (BitVec.eq_of_toNat_eq op) rfl
  case h_14 op => cases h; exact eq_formatXYN (BitVec.eq_of_toNat_eq op) rfl

/-- The two SYS terms without a word of their own would encode to CLS and RET (R98). -/
theorem wellFormed_of_decodeWord {w : Word} {i : Instr} (h : decodeWord w = .ok i) : i.wellFormed = true := by
  cases i
  case sys nnn =>
    have word := encode_of_decodeWord h
    have cls : nnn ≠ 0x0E0#12 := by rintro rfl; rw [← word] at h; exact absurd h (by decide)
    have ret : nnn ≠ 0x0EE#12 := by rintro rfl; rw [← word] at h; exact absurd h (by decide)
    simp [Instr.wellFormed, cls, ret]
  all_goals rfl

/-- Settles O3: the fields a branch reads, under the family and sub-opcode it tests, are all of the word. -/
theorem encodeOfDecodeIsIdentity : Obligations.EncodeOfDecodeIsIdentity := fun _ _ h =>
  ⟨encode_of_decodeWord h, wellFormed_of_decodeWord h⟩

/-! ## The illegal words (R100) -/

theorem decode8_rejects (w : Word) :
    (∃ e, decode8 w = .error e) ↔ w.toNat % 16 ∈ [0x8, 0x9, 0xA, 0xB, 0xC, 0xD, 0xF] := by
  rw [← nField_toNat]
  unfold decode8
  split
  case h_10 =>
    have := (nField w).isLt
    simp only [imp_false] at *
    simp only [Except.error.injEq, exists_eq', List.mem_cons, List.not_mem_nil, or_false, true_iff]
    omega
  all_goals
    rename_i n
    simp [n]

theorem kkField_eq_iff (w : Word) (kk : Byte) : kkField w = kk ↔ w.toNat % 256 = kk.toNat := by
  rw [← BitVec.toNat_inj, kkField_toNat]

theorem nField_eq_iff (w : Word) (n : Nibble) : nField w = n ↔ w.toNat % 16 = n.toNat := by
  rw [← BitVec.toNat_inj, nField_toNat]

theorem decodeE_rejects (w : Word) : (∃ e, decodeE w = .error e) ↔ w.toNat % 256 ∉ [0x9E, 0xA1] := by
  unfold decodeE
  simp only [kkField_eq_iff]
  repeat' split
  all_goals simp_all

theorem decodeF_rejects (w : Word) : (∃ e, decodeF w = .error e) ↔
    w.toNat % 256 ∉ [0x07, 0x0A, 0x15, 0x18, 0x1E, 0x29, 0x33, 0x55, 0x65] := by
  unfold decodeF
  simp only [kkField_eq_iff]
  repeat' split
  all_goals simp_all

/-- Settles O4: family by family, the decoder's test and the row of the table are the same test on the word as a number. -/
theorem rejectedWordsAreTheIllegalOnes : Obligations.RejectedWordsAreTheIllegalOnes := by
  intro w
  unfold decodeWord
  split
  next cls => subst cls; simp [IllegalWord]
  split
  next ret => subst ret; simp [IllegalWord]
  have := w.isLt
  split
  case h_9 op => rw [opField_toNat] at op; simp [decode8_rejects, IllegalWord, op]
  case h_15 op => rw [opField_toNat] at op; simp [decodeE_rejects, IllegalWord, op]
  case h_16 =>
    have op : w.toNat / 4096 = 0xF := by
      simp only [opField_toNat, imp_false] at *
      omega
    simp [decodeF_rejects, IllegalWord, op]
  case h_6 op | h_10 op => rw [opField_toNat] at op; split <;> simp_all [IllegalWord, nField_eq_iff]
  all_goals
    rename_i op
    rw [opField_toNat] at op
    simp [IllegalWord, op]

end Sys2Proof

namespace Sys2Proof.Machine

/-! ## The frame of every instruction: which components it may write -/

/-- `s` with the components that instruction `i` may write taken from `t`. -/
def framed (i : Instr) (s t : State) : State :=
  match i with
  | .sys _ => s
  | .cls => { s with disp := t.disp, renderPending := t.renderPending }
  | .ret => { s with sp := t.sp, pc := t.pc }
  | .jp _ | .jpV0 _ => { s with pc := t.pc }
  | .call _ => { s with stack := t.stack, sp := t.sp, pc := t.pc, status := t.status }
  | .seImm _ _ | .sneImm _ _ | .seReg _ _ | .sneReg _ _ | .skp _ | .sknp _ => { s with skipPending := t.skipPending }
  | .ldImm _ _ | .addImm _ _ | .ldReg _ _ | .orReg _ _ | .andReg _ _ | .xorReg _ _ | .addReg _ _ | .sub _ _ | .shr _ _
  | .subn _ _ | .shl _ _ | .ldVxDT _ => { s with v := t.v }
  | .rnd _ _ => { s with v := t.v, host := t.host }
  | .drw _ _ _ => { s with v := t.v, disp := t.disp, renderPending := t.renderPending }
  | .ldVxK _ =>
    { s with
      v := t.v, dt := t.dt, st := t.st, key := t.key, renderPending := t.renderPending, renderOut := t.renderOut,
      status := t.status, keyWait := t.keyWait, host := t.host }
  | .ldDTVx _ => { s with dt := t.dt }
  | .ldSTVx _ => { s with st := t.st }
  | .ldI _ | .addI _ | .ldF _ => { s with i := t.i }
  | .ldB _ => { s with mem := t.mem }
  | .storeRegs _ => { s with mem := t.mem, i := t.i }
  | .loadRegs _ => { s with v := t.v, i := t.i }

/-- A raw read writes its register, ends or keeps the wait, and uses up an answer; only ESC changes the status (R233). -/
theorem readKey_eq (s : State) (x : Nibble) : s.readKey x = { s with
    v := (s.readKey x).v, status := (s.readKey x).status, keyWait := (s.readKey x).keyWait, host := s.askedWait.host } := by
  rcases readKey_cases s x with ⟨k, -, e⟩ | ⟨-, e⟩ | ⟨-, e⟩ <;> rw [e] <;> rfl

/-- Every instruction leaves the components outside its frame as they were. -/
theorem exec_frame {i : Instr} {s t : State} (h : exec i s = .next t) : t = framed i s t := by
  cases i <;> obtain rfl := Host.Outcome.next.inj h
  case ret | call => split <;> rfl
  case orReg x _ | andReg x _ | xorReg x _ => exact writeLogic_eq s x _
  case addReg x _ | sub x _ | subn x _ | shr x _ | shl x _ => exact writeRF_eq s x _ _
  case storeRegs x => rw [advanceIndex_eq]; rfl
  case loadRegs x => rw [advanceIndex_eq, loadBlock_eq]; rfl
  case ldVxK x => rw [readKey_eq]; rfl
  all_goals rfl

/-! ## Who writes what (R21 to R36) -/

theorem exec_pc_kept {i : Instr} {s t : State} (h : exec i s = .next t) (hi : i.transfers = false) : t.pc = s.pc := by
  cases i
  case ret | jp | call | jpV0 => cases hi
  all_goals exact (congrArg State.pc (exec_frame h) :)

theorem exec_skipPending_kept {i : Instr} {s t : State} (h : exec i s = .next t) (hi : i.skips = false) :
    t.skipPending = s.skipPending := by
  cases i
  case seImm | sneImm | seReg | sneReg | skp | sknp => cases hi
  all_goals exact (congrArg State.skipPending (exec_frame h) :)

theorem exec_stack_kept {i : Instr} {s t : State} (h : exec i s = .next t) (ret : i ≠ .ret)
    (call : ∀ nnn, i ≠ .call nnn) : t.stack = s.stack ∧ t.sp = s.sp := by
  cases i
  case ret => exact absurd rfl ret
  case call nnn => exact absurd rfl (call nnn)
  all_goals exact ⟨(congrArg State.stack (exec_frame h) :), (congrArg State.sp (exec_frame h) :)⟩

/-- Settles O48: each clause is read off the frame. -/
theorem controlStateWriters : Obligations.ControlStateWriters := fun _ _ _ h =>
  ⟨exec_pc_kept h, exec_skipPending_kept h, exec_stack_kept h⟩

theorem exec_i_kept {i : Instr} {s t : State} (h : exec i s = .next t) (ldI : ∀ nnn, i ≠ .ldI nnn)
    (addI : ∀ x, i ≠ .addI x) (ldF : ∀ x, i ≠ .ldF x) (store : ∀ x, i ≠ .storeRegs x)
    (load : ∀ x, i ≠ .loadRegs x) : t.i = s.i := by
  cases i
  case ldI nnn => exact absurd rfl (ldI nnn)
  case addI x => exact absurd rfl (addI x)
  case ldF x => exact absurd rfl (ldF x)
  case storeRegs x => exact absurd rfl (store x)
  case loadRegs x => exact absurd rfl (load x)
  all_goals exact (congrArg State.i (exec_frame h) :)

theorem exec_display_kept {i : Instr} {s t : State} (h : exec i s = .next t) (cls : i ≠ .cls)
    (drw : ∀ x y n, i ≠ .drw x y n) :
    t.disp = s.disp ∧ ((∀ x, i ≠ .ldVxK x) → t.renderPending = s.renderPending) := by
  have frame := exec_frame h
  cases i
  case cls => exact absurd rfl cls
  case drw x y n => exact absurd rfl (drw x y n)
  case ldVxK x => exact ⟨(congrArg State.disp frame :), fun notWait => absurd rfl (notWait x)⟩
  all_goals exact ⟨(congrArg State.disp frame :), fun _ => (congrArg State.renderPending frame :)⟩

theorem exec_key_kept {i : Instr} {s t : State} (h : exec i s = .next t) (notWait : ∀ x, i ≠ .ldVxK x) :
    t.key = s.key ∧ t.renderOut = s.renderOut := by
  cases i
  case ldVxK x => exact absurd rfl (notWait x)
  all_goals exact ⟨(congrArg State.key (exec_frame h) :), (congrArg State.renderOut (exec_frame h) :)⟩

theorem exec_dt_kept {i : Instr} {s t : State} (h : exec i s = .next t) (notWait : ∀ x, i ≠ .ldVxK x)
    (notDT : ∀ x, i ≠ .ldDTVx x) : t.dt = s.dt := by
  cases i
  case ldVxK x => exact absurd rfl (notWait x)
  case ldDTVx x => exact absurd rfl (notDT x)
  all_goals exact (congrArg State.dt (exec_frame h) :)

theorem exec_st_kept {i : Instr} {s t : State} (h : exec i s = .next t) (notWait : ∀ x, i ≠ .ldVxK x)
    (notST : ∀ x, i ≠ .ldSTVx x) : t.st = s.st := by
  cases i
  case ldVxK x => exact absurd rfl (notWait x)
  case ldSTVx x => exact absurd rfl (notST x)
  all_goals exact (congrArg State.st (exec_frame h) :)

/-- Settles O49: each clause is read off the frame. -/
theorem deviceStateWriters : Obligations.DeviceStateWriters := fun _ _ _ h =>
  ⟨exec_i_kept h, exec_display_kept h, fun notWait =>
    let ⟨key, out⟩ := exec_key_kept h notWait
    ⟨key, out, exec_dt_kept h notWait, exec_st_kept h notWait⟩⟩

/-! ## Registers and memory -/

/-- `write_rf` writes its destination and VF alone (R173). -/
theorem reg_writeRF_other {s : State} {x z : Nibble} (r f : Byte) (hx : z ≠ x) (hf : z ≠ vf) :
    (s.writeRF x r f).reg z = s.reg z := by
  rw [reg_writeRF, if_neg hf, if_neg hx]

/-- A raw read writes its destination alone (R233). -/
theorem reg_readKey_other {s : State} {x z : Nibble} (h : z ≠ x) : (s.readKey x).reg z = s.reg z := by
  rcases readKey_cases s x with ⟨k, -, e⟩ | ⟨-, e⟩ | ⟨-, e⟩ <;> rw [e]
  · exact reg_setReg_other (s := s.askedWait) h
  · rfl
  · rfl

theorem reg_advanceIndex (s : State) (x z : Nibble) : (s.advanceIndex x).reg z = s.reg z := by
  rw [advanceIndex_eq]; rfl

/-- Settles O46: outside its destination and VF a register is out of reach of every register write. -/
theorem registersChangeOnlyAsNamed : Obligations.RegistersChangeOnlyAsNamed := by
  intro i s t r h other flag
  have notFlag (writes : i.writesVF s.q = true) : r ≠ vf := fun isFlag => by simp [flag isFlag] at writes
  cases i
  case ldImm | addImm | ldReg | rnd | ldVxDT =>
    obtain rfl := Host.Outcome.next.inj h
    exact reg_setReg_other (by simpa [Instr.hasDestination] using other)
  case orReg | andReg | xorReg =>
    obtain rfl := Host.Outcome.next.inj h
    exact reg_writeLogic_other _ (by simpa [Instr.hasDestination] using other) fun ⟨isFlag, vip⟩ => notFlag vip isFlag
  case addReg | sub | subn | shr | shl =>
    obtain rfl := Host.Outcome.next.inj h
    exact reg_writeRF_other _ _ (by simpa [Instr.hasDestination] using other) (notFlag rfl)
  case drw =>
    obtain rfl := Host.Outcome.next.inj h
    exact reg_setReg_other (notFlag rfl)
  case loadRegs x =>
    obtain rfl := Host.Outcome.next.inj h
    have above : ¬r.toNat ≤ x.toNat := by simpa [Instr.hasDestination] using other
    rw [reg_advanceIndex, reg_loadBlock, if_neg above]
  case ldVxK =>
    obtain rfl := Host.Outcome.next.inj h
    exact reg_readKey_other (by simpa [Instr.hasDestination] using other)
  all_goals exact (congrArg (State.reg · r) (exec_frame h) :)

theorem readMem_advanceIndex (s : State) (x : Nibble) (a : Nat) : (s.advanceIndex x).readMem a = s.readMem a := by
  rw [advanceIndex_eq]; rfl

/-- A block stored from `I` upwards changes none but its own cells (R62, R65). -/
theorem readMem_storeBlock_other {s : State} {bs : List Byte} {a : Nat}
    (h : ∀ k < bs.length, a % Config.memSize ≠ indexedAddr s k % Config.memSize) :
    (s.setMem (s.mem.writeBytes (indexedAddr s 0) bs)).readMem a = s.readMem a :=
  Memory.read_writeBytes_other fun k hk => (h k hk).symm

/-- Settles O47: the two block stores change no cell outside their blocks, and no other instruction has memory in its frame. -/
theorem memoryChangesOnlyWhereStored : Obligations.MemoryChangesOnlyWhereStored := by
  intro i s t a h other
  have outside : ∀ k < storedCount i, a % Config.memSize ≠ indexedAddr s k % Config.memSize := fun k hk e =>
    other ⟨k, hk, e⟩
  cases i
  case ldB x =>
    obtain rfl := Host.Outcome.next.inj h
    exact readMem_storeBlock_other outside
  case storeRegs x =>
    obtain rfl := Host.Outcome.next.inj h
    rw [readMem_advanceIndex]
    exact readMem_storeBlock_other (by simpa [storedCount] using outside)
  all_goals exact (congrArg (State.readMem · a) (exec_frame h) :)

/-! ## The latched configuration (R6, R32, R33, R36) -/

/-- What is latched at reset and never written again. -/
def State.latched (s : State) : Quirks × Nat × XfOrder × Nat × Nat := (s.q, s.cpf, s.xfOrder, s.keyHold, s.idleCount)

theorem latched_exec {i : Instr} {s t : State} (h : exec i s = .next t) : t.latched = s.latched := by
  cases i <;> exact (congrArg State.latched (exec_frame h) :)

theorem latched_countCycle (s : State) : s.countCycle.latched = s.latched := by
  rw [countCycle_eq]; split <;> rfl

theorem latched_readKey (s : State) (x : Nibble) : (s.readKey x).latched = s.latched := by
  rw [readKey_eq]; rfl

theorem latched_frameEnd {s : State} (hr : s.status = .running) : s.frameEnd.latched = s.latched := by
  have before : s.renderStep.timerStep.agingStep.latched = s.latched := by rw [beforePoll_eq]; rfl
  rcases frameEnd_cases s hr with ⟨k, -, e⟩ | ⟨-, e⟩ | ⟨-, e⟩ <;> rw [e] <;> exact before

theorem latched_step {s t : State} (h : step s = .next t) : t.latched = s.latched := by
  obtain ⟨hr, hc, ⟨x, -, rfl⟩ | ⟨hw, room, -⟩ | ⟨-, -, rfl⟩⟩ := machineStep_cases h
  · rw [latched_countCycle, latched_readKey]
  · have due : s.CycleDue := ⟨hr, Nat.pos_of_ne_zero hc, hw, room⟩
    rcases step_cycle_cases due h with ⟨-, rfl⟩ | ⟨-, -, rfl⟩ | ⟨i, u, -, hu, rfl⟩
    · rfl
    · rfl
    · rw [latched_countCycle, latched_exec hu]; rfl
  · exact latched_frameEnd hr

theorem latched_move {s t : State} {m : Move} (h : s.move m = .next t) : t.latched = s.latched := by
  cases m with
  | step => exact latched_step h
  | cancel =>
    obtain ⟨-, e⟩ := whenRunning_next h
    obtain rfl := Host.Outcome.next.inj e
    rfl

/-- Settles O50: `latched` is kept by every operation a move is made of. -/
theorem configurationIsLatched : Obligations.ConfigurationIsLatched := by
  intro s t m h
  simpa [State.latched] using latched_move h

/-! ## The ends of a run (R250, R257, R260) -/

/-- The word of CALL as a number: family nibble 2 above the address field (R99). -/
theorem encode_call (nnn : Addr) : encode (.call nnn) = BitVec.ofNat 16 (0x2000 + nnn.toNat) := by
  refine BitVec.eq_of_toNat_eq ((BitVec.toNat_append 0x2#4 nnn).trans ?_)
  have bound := nnn.isLt
  rw [← Nat.shiftLeft_add_eq_or_of_lt bound, Nat.shiftLeft_eq, BitVec.toNat_ofNat, BitVec.toNat_ofNat]
  omega

theorem exec_call_of_room {nnn : Addr} {s : State} (h : s.sp.val < 1792) :
    exec (.call nnn) s = .next ((s.pushReturn s.pc h).setPc nnn.toWord) :=
  congrArg Host.Outcome.next (dif_pos h)

theorem exec_call_of_full {nnn : Addr} {s : State} (h : s.sp.val = 1792) : exec (.call nnn) s =
    .next (s.halt (.stackError (s.pc - 2#16) (BitVec.ofNat 16 (0x2000 + nnn.toNat)))) := by
  rw [← encode_call]
  exact congrArg Host.Outcome.next (dif_neg h.not_lt)

/-- Everything a CALL can do: the push and the jump where there is room, and the halt where there is none (R123). -/
theorem exec_call_cases {nnn : Addr} {s t : State} (h : exec (.call nnn) s = .next t) :
    (∃ room : s.sp.val < 1792, t = (s.pushReturn s.pc room).setPc nnn.toWord) ∨
      (s.sp.val = 1792 ∧ t = s.halt (.stackError (s.pc - 2#16) (BitVec.ofNat 16 (0x2000 + nnn.toNat)))) := by
  by_cases room : s.sp.val < 1792
  · rw [exec_call_of_room room] at h
    exact .inl ⟨room, (Host.Outcome.next.inj h).symm⟩
  · have full : s.sp.val = 1792 := by have := s.sp.isLt; omega
    rw [exec_call_of_full full] at h
    exact .inr ⟨full, (Host.Outcome.next.inj h).symm⟩

/-- Everything a RET can do: nothing on an empty stack, and else the pop (R121). -/
theorem exec_ret_cases {s t : State} (h : exec .ret s = .next t) :
    t = s ∨ ∃ held : 0 < s.sp.val, t = s.popReturn held := by
  rcases Nat.eq_zero_or_pos s.sp.val with empty | held
  · rw [exec_ret_of_empty empty] at h
    exact .inl (Host.Outcome.next.inj h).symm
  · rw [exec_ret_of_nonempty held] at h
    exact .inr ⟨held, (Host.Outcome.next.inj h).symm⟩

theorem exec_ldVxK (x : Nibble) (s : State) : exec (.ldVxK x) s = .next (s.emitFrame.clearKeysAndTimers.readKey x) := rfl

/-- A raw read changes the status only where it answers ESC (R233). -/
theorem readKey_status {s : State} {x : Nibble} (h : (s.readKey x).status ≠ s.status) :
    s.waitAnswer = some .esc ∧ (s.readKey x).status = .exited := by
  rcases readKey_cases s x with ⟨k, -, e⟩ | ⟨esc, e⟩ | ⟨-, e⟩ <;> rw [e] at h ⊢
  · exact absurd rfl h
  · exact ⟨esc, rfl⟩
  · exact absurd rfl h

/-- Settles O11: the status is in the frame of CALL and `Fx0A` alone, and each writes it in one case. -/
theorem onlyFullCallAndEscEndTheRun : Obligations.OnlyFullCallAndEscEndTheRun := by
  intro i s t h ended
  cases i
  case call nnn =>
    refine .inl ⟨nnn, rfl, ?_⟩
    rcases exec_call_cases h with ⟨room, rfl⟩ | ⟨full, rfl⟩
    · exact absurd rfl ended
    · exact ⟨full, rfl⟩
  case ldVxK x =>
    obtain rfl := Host.Outcome.next.inj h
    exact .inr ⟨x, rfl, readKey_status (s := s.emitFrame.clearKeysAndTimers) ended⟩
  all_goals exact absurd (congrArg State.status (exec_frame h) :) ended

theorem whenRunning_of_running {s : State} (h : s.status = .running) (r : Result) : s.whenRunning r = r := by
  simp [State.whenRunning, h]

/-- Settles O12: a cancellation passes the guard of R275 and is the exit. -/
theorem cancelExits : Obligations.CancelExits := fun _ running => whenRunning_of_running running _

end Sys2Proof.Machine

namespace Sys2Proof.Machine

/-! ## The cycle (R94 to R97, R251, R252, R275) -/

/-- A counted next state, said as the statements say it (R275). -/
theorem counted_next_eq (t : State) : counted (.next t) =
    .next (if t.status = .running ∧ t.keyWait = none then { t with cyc := t.cyc + 1 } else t) :=
  congrArg Host.Outcome.next (countCycle_eq t)

/-- Settles O5: the decoded cycle, and what counting does to its outcome. -/
theorem stepRunsTheDecodedInstruction : Obligations.StepRunsTheDecodedInstruction := by
  intro s t a i rest due ha low high decoded h
  rw [step_decoded due ha ((inWindow_iff a).2 ⟨low, high⟩) decoded, h, counted_next_eq]

theorem tableWord_toNat (w : Word) : tableWord 16 w.toNat = w := by
  have := w.isLt
  apply BitVec.eq_of_toNat_eq
  rw [tableWord, BitVec.toNat_ofNat]
  omega

/-- A table word of 16 bits is placed as it is. -/
theorem withFetchWord_eq (s : State) (w : Word) : s.withFetchWord 16 w.toNat = s.storeAtFetch w :=
  congrArg s.storeAtFetch (tableWord_toNat w)

theorem readMem_storeAtFetch_other {s : State} {w : Word} {c : Nat} (hi : c % 4096 ≠ s.fetchAddr.toNat % 4096)
    (lo : c % 4096 ≠ (s.fetchAddr.toNat + 1) % 4096) : (s.storeAtFetch w).readMem c = s.readMem c := by
  refine Memory.read_writeBytes_other fun k hk => ?_
  obtain rfl | rfl : k = 0 ∨ k = 1 := Nat.le_one_iff_eq_zero_or_eq_one.1 (Nat.le_of_lt_succ hk)
  · exact hi.symm
  · exact lo.symm

/-- Settles O6: the word of a well-formed instruction decodes to it, and placing it writes two cells. -/
theorem placedInstructionRuns : Obligations.PlacedInstructionRuns := by
  intro s t a i running clock wf ha low high h
  rw [withFetchWord_eq] at h ⊢
  rw [← fetchAddr_eq] at ha
  subst ha
  refine ⟨?_, fun c => readMem_storeAtFetch_other⟩
  rw [step_storeAtFetch running clock ((inWindow_iff _).2 ⟨low, high⟩) (decodeWord_encode wf), h, counted_next_eq]

/-- Settles O32: where no skip is pending, the two registers stored at `pc` leave memory as a placed word does. -/
theorem storeIsSeenByTheNextFetch : Obligations.StoreIsSeenByTheNextFetch := by
  intro s t u i wf due noSkip atPc low high hi lo stored h
  have block : regBlock s 1#4 = [hiByte (encode i), loByte (encode i)] := by rw [← hi, ← lo]; rfl
  have fetchAddr : s.fetchAddr = s.pc := by simp [fetchAddr_eq, noSkip]
  have mem : t.mem = (s.storeAtFetch (encode i)).mem := by
    obtain rfl := Host.Outcome.next.inj stored
    rw [advanceIndex_eq, block]
    simp [State.storeAtFetch, fetchAddr, indexedAddr, atPc]
  have frame : t = { s with mem := t.mem, i := t.i } := exec_frame stored
  have due' : t.CycleDue := by rw [frame]; exact due
  have pc : t.pc = s.pc := by rw [frame]
  have noSkip' : t.skipPending = false := by rw [frame]; exact noSkip
  have decoded : decode (fetchBytes t.mem t.pc) = .ok (i, []) := by
    rw [mem, pc, ← fetchAddr, fetchBytes_storeAtFetch, decode_two, wordOfBytes_hi_lo, decodeWord_encode wf]
  have inside : inWindow t.pc = true := (inWindow_iff _).2 (pc ▸ ⟨low, high⟩)
  rw [step_decoded due' (by simp [noSkip']) inside decoded, ← noSkip', h, counted_next_eq]

/-- Settles O8: the bounds error comes before anything is fetched. -/
theorem fetchOutsideTheWindowHalts : Obligations.FetchOutsideTheWindowHalts := by
  intro s a due ha outside
  refine step_bounds due ha ((Bool.not_eq_true _).mp fun inside => ?_)
  have := (inWindow_iff a).1 inside
  omega

/-- Settles O9: an illegal word is one the decoder rejects, and the halt it takes has no step. -/
theorem illegalWordHalts : Obligations.IllegalWordHalts := by
  intro s a due ha low high illegal
  obtain ⟨e, rejected⟩ := (rejectedWordsAreTheIllegalOnes _).2 illegal
  have decoded : decode (fetchBytes s.mem a) = .error e := by
    rw [State.readMem, State.readMem] at rejected
    rw [fetchBytes, decode_two, rejected]
  exact ⟨_, step_illegal due ha ((inWindow_iff a).2 ⟨low, high⟩) decoded, rfl, (haltIsFinal _ .step).1 _ rfl⟩

/-- Settles O43: `cyc` is in no instruction's frame, so the count of the completed cycle is all that moves it. -/
theorem cyclesAreCounted : Obligations.CyclesAreCounted := by
  intro s t due h
  rcases step_cycle_cases due h with ⟨-, rfl⟩ | ⟨-, -, rfl⟩ | ⟨i, u, -, hu, rfl⟩
  · simp
  · simp
  · have cyc : u.cyc = s.cyc := by
      cases i <;> exact (congrArg State.cyc (exec_frame hu) :)
    rw [countCycle_eq]
    split <;> simp_all

/-! ## Jumps and calls (R122 to R124) -/

theorem exec_jp (nnn : Addr) (s : State) : exec (.jp nnn) s = .next (s.setPc nnn.toWord) := rfl

/-- Settles O15: JP is one write of `pc`; only the next cycle checks the target. -/
theorem jumpSetsPc : Obligations.JumpSetsPc := by
  intro nnn s
  refine ⟨_, exec_jp nnn s, toNat_addr_toWord nnn, rfl, fun low due (noSkip : s.skipPending = false) => ?_⟩
  have outside : nnn.toWord.toNat < 0x200 := (toNat_addr_toWord nnn).trans_lt low
  rw [fetchOutsideTheWindowHalts _ nnn.toWord due (by simp [noSkip]) (.inl outside), ← noSkip]
  rfl

/-- CALL's push writes the entry at `sp` and no other (R123). -/
theorem stack_pushReturn (s : State) (a : Word) (h : s.sp.val < 1792) (j : Nat) :
    (s.pushReturn a h).stack[j]? = if j = s.sp.val then some a else s.stack[j]? := by
  rw [pushReturn_stack, Vector.getElem?_set]
  by_cases e : j = s.sp.val
  · simp [e]
  · simp [e, Ne.symm e]

/-- Settles O16: CALL is the push and the jump where there is room, and the halt where there is none. -/
theorem callPushesOrHalts : Obligations.CallPushesOrHalts := by
  intro nnn s
  refine ⟨fun room => ⟨_, exec_call_of_room room, ?_, rfl, toNat_addr_toWord nnn, fun j other => ?_, rfl⟩,
    exec_call_of_full⟩
  · exact (stack_pushReturn s s.pc room s.sp.val).trans (if_pos rfl)
  · exact (stack_pushReturn s s.pc room j).trans (if_neg other)

theorem exec_jpV0 (nnn : Addr) (s : State) :
    exec (.jpV0 nnn) s = .next (s.setPc (nnn.toWord + (s.reg (jumpRegister s nnn)).toWord)) := rfl

/-- A target and an offset register never sum to more than 0x10FE, far from wrapping (R124). -/
theorem toNat_target_add_offset (nnn : Addr) (b : Byte) :
    (nnn.toWord + b.toWord).toNat = nnn.toNat + b.toNat ∧ nnn.toNat + b.toNat ≤ 0x10FE := by
  have := nnn.isLt
  have := b.isLt
  have offset : b.toWord.toNat = b.toNat := BitVec.toNat_setWidth_of_le (by decide)
  rw [BitVec.toNat_add, toNat_addr_toWord, offset]
  omega

theorem jumpRegister_eq (s : State) (nnn : Addr) :
    jumpRegister s nnn = if s.q.jmp then BitVec.ofNat 4 (nnn.toNat / 256) else 0#4 := by
  have high : nnn.extractLsb' 8 4 = BitVec.ofNat 4 (nnn.toNat / 256) :=
    BitVec.eq_of_toNat_eq (by simp [BitVec.extractLsb'_toNat, Nat.shiftRight_eq_div_pow])
  rw [jumpRegister, high]

/-- Settles O17: the sum of R124 is too small to be reduced. -/
theorem jumpWithOffset : Obligations.JumpWithOffset := by
  intro nnn s
  obtain ⟨sum, bound⟩ := toNat_target_add_offset nnn (s.reg (jumpRegister s nnn))
  refine ⟨_, exec_jpV0 nnn s, ?_, ?_, rfl⟩
  · rw [← jumpRegister_eq]
    exact sum
  · exact sum.trans_le bound

/-! ## Skips (R141 to R146) -/

/-- Settles O18: each skip is `skipIf` of its condition, which a Boolean comparison decides. -/
theorem compareSkips : Obligations.CompareSkips := by
  intro x y kk s
  refine ⟨congrArg Host.Outcome.next ?_, congrArg Host.Outcome.next ?_, congrArg Host.Outcome.next ?_,
    congrArg Host.Outcome.next ?_⟩
  all_goals simp [skipIf_eq]

theorem lowNibble_eq {k : Nibble} {b : Byte} (h : k.toNat = b.toNat % 16) : lowNibble b = k :=
  BitVec.eq_of_toNat_eq (by simp [lowNibble, BitVec.extractLsb'_toNat, h])

theorem exec_skp (x : Nibble) (s : State) : exec (.skp x) s = .next (s.skipIf (s.pressed (lowNibble (s.reg x)))) := rfl

theorem exec_sknp (x : Nibble) (s : State) : exec (.sknp x) s = .next (s.skipIf (!s.pressed (lowNibble (s.reg x)))) := rfl

/-- Settles O19: the slot is that of the low digit, and `pressed` is its being nonzero. -/
theorem keySkips : Obligations.KeySkips := by
  intro x k s digit
  rw [exec_skp, exec_sknp, lowNibble_eq digit, skipIf_eq, skipIf_eq]
  simp [State.pressed]

end Sys2Proof.Machine

namespace Sys2Proof.Machine

/-! ## Arithmetic, shifts and random (R161, R166 to R173) -/

theorem exec_addImm (x : Nibble) (kk : Byte) (s : State) : exec (.addImm x kk) s = .next (s.setReg x (s.reg x + kk)) := rfl

/-- Settles O21: one register write of a sum of bytes. -/
theorem addImmediate : Obligations.AddImmediate := by
  intro x kk s
  refine ⟨_, exec_addImm x kk s, ?_, fun _ => reg_setReg_other, setReg_eq s x _⟩
  rw [reg_setReg_same, BitVec.toNat_add]

/-- Everything `write_rf` does: result and flag for `x` other than 15, one of the two for `x` = 15, and no other register
and no other component (R173). -/
theorem writeRF_spec (s : State) (x : Nibble) (r f : Byte) :
    (x ≠ 15#4 → (s.writeRF x r f).reg x = r ∧ (s.writeRF x r f).reg 15#4 = f) ∧
    (x = 15#4 → (s.writeRF x r f).reg 15#4 = if s.xfOrder = .flagLast then f else r) ∧
    (∀ z, z ≠ x → z ≠ 15#4 → (s.writeRF x r f).reg z = s.reg z) ∧
    s.writeRF x r f = { s with v := (s.writeRF x r f).v } := by
  rw [show (15#4 : Nibble) = vf from rfl]
  refine ⟨fun notFlag => ⟨?_, ?_⟩, fun isFlag => ?_, fun _ => reg_writeRF_other r f, writeRF_eq s x r f⟩
  · rw [reg_writeRF, if_neg notFlag, if_pos rfl]
  · rw [reg_writeRF, if_pos rfl, if_neg notFlag]
  · rw [reg_writeRF, if_pos rfl, if_pos isFlag]
    cases s.xfOrder <;> rfl

theorem exec_addReg (x y : Nibble) (s : State) : exec (.addReg x y) s =
    .next (s.writeRF x (s.reg x + s.reg y) (carryFlag (s.reg x) (s.reg y))) := rfl

theorem carryFlag_toNat (a b : Byte) : (carryFlag a b).toNat = if 255 < a.toNat + b.toNat then 1 else 0 := by
  simp [carryFlag, flagByte_toNat]

/-- Settles O23: `write_rf` of the sum and its carry. -/
theorem addWithCarry : Obligations.AddWithCarry := fun x y s =>
  ⟨_, _, _, exec_addReg x y s, BitVec.toNat_add _ _, carryFlag_toNat _ _, writeRF_spec s x _ _⟩

theorem exec_sub (x y : Nibble) (s : State) : exec (.sub x y) s =
    .next (s.writeRF x (s.reg x - s.reg y) (noBorrowFlag (s.reg x) (s.reg y))) := rfl

theorem exec_subn (x y : Nibble) (s : State) : exec (.subn x y) s =
    .next (s.writeRF x (s.reg y - s.reg x) (noBorrowFlag (s.reg y) (s.reg x))) := rfl

theorem noBorrowFlag_toNat (a b : Byte) : (noBorrowFlag a b).toNat = if b.toNat ≤ a.toNat then 1 else 0 := by
  simp [noBorrowFlag, flagByte_toNat]

/-- The difference of two bytes over the integers (R172). -/
theorem toNat_sub_byte (a b : Byte) : ((a - b).toNat : Int) = ((a.toNat : Int) - (b.toNat : Int)) % 256 := by
  have := a.isLt
  have := b.isLt
  rw [BitVec.toNat_sub]
  omega

/-- Settles O24: `write_rf` of the difference and its inverted borrow, in either operand order. -/
theorem subtractWithInvertedBorrow : Obligations.SubtractWithInvertedBorrow := by
  intro x y s i a b h
  have executed : exec i s = .next (s.writeRF x (a - b) (noBorrowFlag a b)) := by
    rcases h with ⟨rfl, rfl, rfl⟩ | ⟨rfl, rfl, rfl⟩
    · exact exec_sub x y s
    · exact exec_subn x y s
  exact ⟨_, _, _, executed, toNat_sub_byte a b, noBorrowFlag_toNat a b, writeRF_spec s x _ _⟩

theorem exec_shr (x y : Nibble) (s : State) : exec (.shr x y) s =
    .next (s.writeRF x (shiftSource s x y >>> 1) (shrFlag (shiftSource s x y))) := rfl

theorem exec_shl (x y : Nibble) (s : State) : exec (.shl x y) s =
    .next (s.writeRF x (shiftSource s x y <<< 1) (shlFlag (shiftSource s x y))) := rfl

theorem shrFlag_toNat (a : Byte) : (shrFlag a).toNat = a.toNat % 2 := by
  rw [shrFlag, flagByte_toNat, BitVec.getLsbD, Nat.testBit_zero]
  simp only [decide_eq_true_eq]
  split <;> omega

theorem shlFlag_toNat (a : Byte) : (shlFlag a).toNat = a.toNat / 128 := by
  have := a.isLt
  rw [shlFlag, flagByte_toNat, BitVec.getLsbD, Nat.testBit_eq_decide_div_mod_eq]
  simp only [decide_eq_true_eq]
  split <;> omega

/-- Settles O25: `write_rf` of the shifted source and the bit shifted out. -/
theorem shiftsByOne : Obligations.ShiftsByOne := by
  intro x y s i src r f hsrc h
  have source : shiftSource s x y = src := hsrc.symm
  obtain ⟨R, F, executed, rfl, rfl⟩ :
      ∃ R F : Byte, exec i s = .next (s.writeRF x R F) ∧ R.toNat = r ∧ F.toNat = f := by
    rcases h with ⟨rfl, rfl, rfl⟩ | ⟨rfl, rfl, rfl⟩
    · refine ⟨_, _, exec_shr x y s, ?_, ?_⟩ <;> rw [source]
      · simp [Nat.shiftRight_eq_div_pow]
      · exact shrFlag_toNat src
    · refine ⟨_, _, exec_shl x y s, ?_, ?_⟩ <;> rw [source]
      · simp [Nat.shiftLeft_eq]
      · exact shlFlag_toNat src
  obtain ⟨both, one, others, frame⟩ := writeRF_spec s x R F
  refine ⟨_, executed, fun notFlag => ?_, fun isFlag => ?_, others, frame⟩
  · obtain ⟨result, flag⟩ := both notFlag
    exact ⟨congrArg _ result, congrArg _ flag⟩
  · rw [one isFlag]
    split <;> rfl

theorem exec_rnd (x : Nibble) (kk : Byte) (s : State) :
    exec (.rnd x kk) s = .next (s.askedRnd.setReg x (s.rndAnswer &&& kk)) := rfl

/-- Settles O26: one register write of the draw under the mask, the draw being the ready answer where there is one. -/
theorem randomByteUnderMask : Obligations.RandomByteUnderMask := by
  intro x kk s
  refine ⟨_, s.rndAnswer, exec_rnd x kk s, fun a rest ready => ?_, rfl, fun b _ => ?_, ?_, fun r => reg_setReg_other, rfl⟩
  · simp [State.rndAnswer, ready]
  · rw [reg_setReg_same, BitVec.getLsbD_and]
  · rintro rfl
    rw [reg_setReg_same, BitVec.and_zero]

/-! ## Address register, stores and loads (R191 to R195) -/

theorem exec_addI (x : Nibble) (s : State) : exec (.addI x) s = .next (s.setI (s.i + (s.reg x).toWord)) := rfl

theorem exec_ldF (x : Nibble) (s : State) : exec (.ldF x) s = .next (s.setI (glyphAddr (lowNibble (s.reg x)))) := rfl

@[simp] theorem toNat_byte_toWord (b : Byte) : b.toWord.toNat = b.toNat := BitVec.toNat_setWidth_of_le (by decide)

theorem glyphAddr_toNat (b : Byte) : (glyphAddr (lowNibble b)).toNat = 0x080 + 5 * (b.toNat % 16) := by
  have digit : (lowNibble b).toNat = b.toNat % 16 := by simp [lowNibble, BitVec.extractLsb'_toNat]
  rw [glyphAddr, digit, BitVec.toNat_ofNat, Config.fontBase]
  omega

/-- Settles O28: both are one write of `I`. -/
theorem addressRegisterArithmetic : Obligations.AddressRegisterArithmetic := by
  intro x s
  refine ⟨⟨_, exec_addI x s, ?_, setI_eq s _⟩, _, exec_ldF x s, glyphAddr_toNat _, setI_eq s _⟩
  rw [setI_i, BitVec.toNat_add, toNat_byte_toWord]

/-- The `k`-th cell of a stored block holds its `k`-th byte (R65). -/
theorem readMem_storeBlock {s : State} {bs : List Byte} {k : Nat} (hk : k < bs.length) (short : bs.length ≤ Config.memSize) :
    (s.setMem (s.mem.writeBytes (indexedAddr s 0) bs)).readMem (indexedAddr s k) = bs[k] :=
  Memory.read_writeBytes short hk

theorem exec_ldB (x : Nibble) (s : State) : exec (.ldB x) s =
    .next (s.setMem (s.mem.writeBytes (indexedAddr s 0) (decimalDigits (s.reg x)))) := rfl

theorem toNat_ofNat_byte {n : Nat} (h : n < 256) : (BitVec.ofNat 8 n).toNat = n := by
  rw [BitVec.toNat_ofNat, Nat.mod_eq_of_lt h]

/-- Settles O29: the block stored is the three digits, each of which fits a byte. -/
theorem decimalDigitsStored : Obligations.DecimalDigitsStored := by
  intro x s
  have byte := (s.reg x).isLt
  have stored (k : Nat) (hk : k < 3) :=
    congrArg BitVec.toNat
      (readMem_storeBlock (s := s) (bs := decimalDigits (s.reg x)) hk (by simp [decimalDigits, Config.memSize]))
  refine ⟨_, exec_ldB x s, ?_, ?_, ?_, fun a => readMem_storeBlock_other (bs := decimalDigits (s.reg x)), rfl⟩
  · exact (stored 0 (by decide)).trans (toNat_ofNat_byte (by omega))
  · exact (stored 1 (by decide)).trans (toNat_ofNat_byte (by omega))
  · exact (stored 2 (by decide)).trans (toNat_ofNat_byte (by omega))

/-- Where `I` ends after a block store or load (R194). -/
theorem advanceIndex_toNat (s : State) (x : Nibble) : (s.advanceIndex x).i.toNat =
    if s.q.stq then s.i.toNat else (s.i.toNat + x.toNat + 1) % 65536 := by
  have := x.isLt
  rw [advanceIndex_eq]
  split
  · rfl
  · rw [BitVec.toNat_add, BitVec.toNat_ofNat]
    omega

theorem exec_storeRegs (x : Nibble) (s : State) : exec (.storeRegs x) s =
    .next ((s.setMem (s.mem.writeBytes (indexedAddr s 0) (regBlock s x))).advanceIndex x) := rfl

/-- Settles O30: the block stored is `V[0]`..`V[x]`, at most 16 of the 4096 cells, so that none is stored to twice. -/
theorem blockStore : Obligations.BlockStore := by
  intro x s
  have short : (regBlock s x).length ≤ Config.memSize := by
    rw [regBlock_length, Config.memSize]
    omega
  refine ⟨_, exec_storeRegs x s, fun r hr => ?_, fun a outside => ?_, advanceIndex_toNat _ x,
    exec_frame (exec_storeRegs x s)⟩
  · have inBlock : r.toNat < (regBlock s x).length := by rw [regBlock_length]; omega
    rw [readMem_advanceIndex, readMem_storeBlock inBlock short, regBlock_getElem, BitVec.ofNat_toNat, BitVec.setWidth_eq]
  · rw [readMem_advanceIndex]
    exact readMem_storeBlock_other fun k hk => outside k (by rw [regBlock_length] at hk; omega)

theorem exec_loadRegs (x : Nibble) (s : State) : exec (.loadRegs x) s = .next ((s.loadBlock x).advanceIndex x) := rfl

theorem readMem_loadBlock (s : State) (x : Nibble) (a : Nat) : (s.loadBlock x).readMem a = s.readMem a := by
  rw [loadBlock_eq]; rfl

/-- Settles O31: `reg_loadBlock` says each register, and the rest is the frame. -/
theorem blockLoad : Obligations.BlockLoad := by
  intro x s
  refine ⟨_, exec_loadRegs x s, fun r hr => ?_, fun r hr => ?_, ?_, fun a => ?_, exec_frame (exec_loadRegs x s)⟩
  · rw [reg_advanceIndex, reg_loadBlock, if_pos hr, indexedAddr]
  · rw [reg_advanceIndex, reg_loadBlock, if_neg (by omega)]
  · rw [advanceIndex_toNat, loadBlock_eq]
  · rw [readMem_advanceIndex, readMem_loadBlock]

/-! ## Timer copies (R230 to R232) -/

theorem exec_ldVxDT (x : Nibble) (s : State) : exec (.ldVxDT x) s = .next (s.setReg x s.dt) := rfl

/-- Settles O36: one register write, and two timer writes. -/
theorem timerCopies : Obligations.TimerCopies := fun x s =>
  ⟨⟨_, exec_ldVxDT x s, reg_setReg_same s x s.dt, fun _ => reg_setReg_other, setReg_eq s x s.dt⟩, rfl, rfl⟩

end Sys2Proof.Machine

namespace Sys2Proof.Machine

/-! ## The blocking read (R233) -/

theorem readKey_of_key {s : State} {k : KeyName} (h : s.waitAnswer = some (.key k)) (x : Nibble) :
    s.readKey x = { s.askedWait.setReg x (keyIndex k).toByte with keyWait := none } := by
  simp only [State.readKey, h]

theorem readKey_of_esc {s : State} (h : s.waitAnswer = some .esc) (x : Nibble) : s.readKey x = s.askedWait.exit := by
  simp only [State.readKey, h]

theorem readKey_of_unlisted {s : State} (h : s.waitAnswer = none ∨ ∃ c, s.waitAnswer = some (.other c)) (x : Nibble) :
    s.readKey x = { s.askedWait with keyWait := some x } := by
  rcases h with h | ⟨c, h⟩ <;> simp only [State.readKey, h]

@[simp] theorem toNat_nibble_toByte (n : Nibble) : n.toByte.toNat = n.toNat := BitVec.toNat_setWidth_of_le (by decide)

/-- Settles O37: render and clearing, and then one raw read. -/
theorem keyWaitClearsAndReads : Obligations.KeyWaitClearsAndReads := by
  intro x s
  have frame := exec_frame (exec_ldVxK x s)
  generalize ht : s.emitFrame.clearKeysAndTimers.readKey x = t at frame
  have cleared : t = { s.emitFrame.clearKeysAndTimers with
      v := t.v, status := t.status, keyWait := t.keyWait, host := s.askedWait.host } := by
    rw [← ht]; exact readKey_eq _ x
  refine ⟨t, ht ▸ exec_ldVxK x s, ?_, ?_, fun k => ?_, ?_, ?_, fun r other => ?_, fun k key => ?_, fun esc => ?_,
    fun unlisted => ?_, ?_, frame⟩
  · rw [cleared]; rfl
  · rw [cleared]; rfl
  · rw [cleared]; exact keySlot_clear s.emitFrame k
  · rw [cleared]; rfl
  · rw [cleared]; rfl
  · rw [← ht, reg_readKey_other other]; rfl
  · rw [← ht, readKey_of_key (s := s.emitFrame.clearKeysAndTimers) key]
    exact ⟨(congrArg BitVec.toNat (reg_setReg_same _ x _)).trans (toNat_nibble_toByte _), rfl, rfl⟩
  · rw [← ht, readKey_of_esc (s := s.emitFrame.clearKeysAndTimers) esc]
    exact ⟨rfl, rfl, rfl⟩
  · rw [← ht, readKey_of_unlisted (s := s.emitFrame.clearKeysAndTimers) unlisted]
    exact ⟨rfl, rfl, rfl⟩
  · rw [cleared]; rfl

@[simp] theorem countCycle_host (s : State) : s.countCycle.host = s.host := by
  rw [countCycle_eq]; split <;> rfl

theorem countCycle_of_running {s : State} (hr : s.status = .running) (hw : s.keyWait = none) :
    s.countCycle = { s with cyc := s.cyc + 1 } := by
  rw [countCycle_eq, if_pos ⟨hr, hw⟩]

/-- Settles O38: the step of an open wait is one raw read, counted. -/
theorem openKeyWaitOnlyReads : Obligations.OpenKeyWaitOnlyReads := by
  intro x s running clock wait
  refine ⟨_, step_keyWait running clock wait, ?_, fun k key => ?_, fun esc => ?_, fun unlisted => ?_⟩
  · rw [countCycle_host, readKey_eq]; rfl
  · rw [readKey_of_key key, countCycle_of_running (by exact running) (by rfl)]
    exact ⟨(congrArg BitVec.toNat (reg_setReg_same _ x _)).trans (toNat_nibble_toByte _),
      fun r => reg_setReg_other (s := s.askedWait), rfl⟩
  · rw [readKey_of_esc esc, countCycle_eq, if_neg (by simp)]
    rfl
  · rw [readKey_of_unlisted unlisted, countCycle_eq, if_neg (by simp), ← wait]
    rfl

/-! ## The frame end (R263 to R270) -/

/-- Everything a frame end does but the answer of the poll: render, timers, the poll's question, and a new batch if the
machine still runs (R265 to R270, R275). -/
theorem frameEnd_eq {s : State} (due : s.FrameEndDue) : s.frameEnd = { s with
    renderPending := false, renderOut := if s.renderPending then s.disp.rowMajor :: s.renderOut else s.renderOut,
    dt := countDown s.dt, st := countDown s.st, key := s.frameEnd.key, status := s.frameEnd.status,
    cyc := if s.frameEnd.status = .running then 0 else s.cyc, host := s.askedPoll.host } := by
  obtain ⟨hr, -, hw, -⟩ := due
  rcases frameEnd_cases s hr with ⟨k, -, e⟩ | ⟨-, e⟩ | ⟨-, e⟩ <;> rw [e, beforePoll_eq]
  · simp [hr]
  · simp only [exit_status, reduceCtorEq, if_false, hw]
    rfl
  · simp [hr]

/-- Only ESC at the poll ends the run (R268). -/
theorem status_frameEnd {s : State} (due : s.FrameEndDue) :
    s.frameEnd.status = if s.pollAnswer = some .esc then .exited else .running := by
  obtain ⟨hr, -⟩ := due
  have before : s.renderStep.timerStep.agingStep.status = .running := by rw [beforePoll_eq]; exact hr
  rcases frameEnd_cases s hr with ⟨k, answer, e⟩ | ⟨answer, e⟩ | ⟨answer, e⟩ <;> rw [e]
  · rw [if_neg (by simp [answer])]
    exact before
  · rw [if_pos answer, exit_status]
  · rw [if_neg (by rintro esc; simp [esc] at answer)]
    exact before

theorem keySlot_beforePoll (s : State) (j : Nibble) : s.renderStep.timerStep.agingStep.keySlot j = s.keySlot j - 1 := by
  rw [keySlot_agingStep, renderStep_eq]; rfl

/-- A polled listed key sets its slot, and all others age (R267, R268). -/
theorem keySlot_frameEnd_of_key {s : State} {k : KeyName} (due : s.FrameEndDue) (h : s.pollAnswer = some (.key k))
    (j : Nibble) : s.frameEnd.keySlot j = if j = keyIndex k then s.keyHold else s.keySlot j - 1 := by
  rcases frameEnd_cases s due.1 with ⟨k', answer, e⟩ | ⟨answer, -⟩ | ⟨answer, -⟩
  · obtain rfl : k' = k := by simpa [answer] using h
    rw [e, ← keySlot_beforePoll]
    exact keySlot_setKeySlot s.renderStep.timerStep.agingStep.askedPoll (keyIndex k') j s.keyHold
  · simp [h] at answer
  · simp [h] at answer

theorem keySlot_frameEnd_of_no_key {s : State} (due : s.FrameEndDue) (h : ∀ k, s.pollAnswer ≠ some (.key k)) (j : Nibble) :
    s.frameEnd.keySlot j = s.keySlot j - 1 := by
  rw [← keySlot_beforePoll]
  rcases frameEnd_cases s due.1 with ⟨k, answer, -⟩ | ⟨-, e⟩ | ⟨-, e⟩
  · exact absurd answer (h k)
  · rw [e]; rfl
  · rw [e]; rfl

/-- The row-major sequence is the core library's flattening of a vector of vectors. -/
theorem rowMajor_eq (d : Display) : d.rowMajor = d.flatten.toList := by
  rw [← Vector.toList_toArray, Vector.flatten, Array.toList_flatten, Array.toList_map, Display.rowMajor, List.map_map]
  rfl

theorem rowMajor_getElem? (d : Display) {r c : Nat} (hr : r < 32) (hc : c < 64) :
    d.rowMajor[r * 64 + c]? = some (Display.get d r c) := by
  have inside : r * 64 + c < 32 * 64 := by omega
  have row : (r * 64 + c) / 64 = r % 32 := by omega
  have column : (r * 64 + c) % 64 = c % 64 := by omega
  rw [rowMajor_eq, Vector.getElem?_toList, Vector.getElem?_eq_getElem inside, Vector.getElem_flatten]
  simp only [row, column, Display.get]

/-- Settles O39: the render step is the only part of a frame end that touches the flag and the record. -/
theorem frameEndRenders : Obligations.FrameEndRenders := by
  refine ⟨fun d => ⟨by rw [rowMajor_eq, Vector.length_toList], fun r hr c hc => rowMajor_getElem? d hr hc⟩,
    fun s due => ?_⟩
  refine ⟨_, step_frameEnd due, ?_, ?_, ?_⟩ <;> rw [frameEnd_eq due]

/-- Settles O40: both timers are `countDown`. -/
theorem frameEndCountsTimers : Obligations.FrameEndCountsTimers := by
  intro s due
  refine ⟨_, step_frameEnd due, ?_, ?_⟩ <;> rw [frameEnd_eq due] <;> exact countDown_toNat _

/-- Settles O41: the table is evaluated, and the answers of the poll are told apart as `pollStep` does. -/
theorem frameEndAgesAndPollsKeys : Obligations.FrameEndAgesAndPollsKeys := by
  refine ⟨by decide, fun s due =>
    ⟨_, step_frameEnd due, ?_, fun k j key => ?_, fun noKey j => ?_, fun unlisted => ?_, ?_⟩⟩
  · rw [frameEnd_eq due]; rfl
  · exact ⟨keySlot_frameEnd_of_key due key j, by rw [status_frameEnd due, if_neg (by simp [key])]⟩
  · exact keySlot_frameEnd_of_no_key due (fun k key => by simp [key] at noKey) j
  · rw [status_frameEnd due, if_neg (by rintro esc; simp [esc] at unlisted)]
  · rw [status_frameEnd due]
    by_cases esc : s.pollAnswer = some .esc <;> simp [esc]

/-- Settles O42: `frameEnd_eq` names every component a frame end writes. -/
theorem frameEndFrame : Obligations.FrameEndFrame := by
  intro s due
  have frame := frameEnd_eq due
  refine ⟨_, step_frameEnd due, ?_, fun a => ?_, ?_⟩
  · exact (congrArg State.cyc frame :)
  · exact (congrArg (State.readMem · a) frame :)
  · generalize s.frameEnd = t at frame
    rw [frame]

end Sys2Proof.Machine

namespace Sys2Proof.Machine

/-! ## Components without effect: the sound timer, `Q.CRY` and `idle_count` (R28, R36, D10, D38) -/

/-- `s` with the sound timer, the CRY quirk and `idle_count` replaced. -/
def State.withInert (s : State) (b : Byte) (c : Bool) (n : Nat) : State :=
  { s with st := b, q := { s.q with cry := c }, idleCount := n }

section
variable (b : Byte) (c : Bool) (n : Nat)

theorem writeRF_withInert (s : State) (x : Nibble) (r f : Byte) :
    (s.withInert b c n).writeRF x r f = (s.writeRF x r f).withInert b c n := by
  rw [writeRF_eq s, writeRF_eq, writeRF_v, writeRF_v]
  rfl

theorem writeLogic_withInert (s : State) (x : Nibble) (r : Byte) :
    (s.withInert b c n).writeLogic x r = (s.writeLogic x r).withInert b c n := by
  rw [writeLogic_eq s, writeLogic_eq, writeLogic_v, writeLogic_v]
  rfl

theorem advanceIndex_withInert (s : State) (x : Nibble) :
    (s.withInert b c n).advanceIndex x = (s.advanceIndex x).withInert b c n := by
  rw [advanceIndex_eq, advanceIndex_eq]
  rfl

theorem loadBlock_withInert (s : State) (x : Nibble) : (s.withInert b c n).loadBlock x = (s.loadBlock x).withInert b c n :=
  List.foldl_hom (State.withInert · b c n) fun _ _ => rfl

theorem readKey_withInert (s : State) (x : Nibble) : (s.withInert b c n).readKey x = (s.readKey x).withInert b c n := by
  rcases readKey_cases s x with ⟨k, answer, e⟩ | ⟨answer, e⟩ | ⟨answer, e⟩ <;> rw [e]
  · exact readKey_of_key (s := s.withInert b c n) answer x
  · exact readKey_of_esc (s := s.withInert b c n) answer x
  · exact readKey_of_unlisted (s := s.withInert b c n) answer x

theorem countCycle_withInert (s : State) : (s.withInert b c n).countCycle = s.countCycle.withInert b c n := by
  rw [countCycle_eq, countCycle_eq, apply_ite (State.withInert · b c n)]
  rfl

/-- No instruction reads the three: from a state with them replaced it ends in the same next state with them replaced, where
the sound timer is the one given unless the instruction writes it. -/
theorem exec_withInert {i : Instr} {s t : State} (h : exec i s = .next t) :
    ∃ b', exec i (s.withInert b c n) = .next (t.withInert b' c n) ∧ (b = s.st → b' = t.st) := by
  have kept (notWait : ∀ x, i ≠ .ldVxK x) (notST : ∀ x, i ≠ .ldSTVx x) (e : b = s.st) : b = t.st :=
    e.trans (exec_st_kept h notWait notST).symm
  cases i <;> obtain rfl := Host.Outcome.next.inj h
  case orReg x _ | andReg x _ | xorReg x _ =>
    exact ⟨b, congrArg Host.Outcome.next (writeLogic_withInert b c n s x _), kept nofun nofun⟩
  case addReg x _ | sub x _ | subn x _ | shr x _ | shl x _ =>
    exact ⟨b, congrArg Host.Outcome.next (writeRF_withInert b c n s x _ _), kept nofun nofun⟩
  case storeRegs x =>
    have stored := advanceIndex_withInert b c n (s.setMem (s.mem.writeBytes (indexedAddr s 0) (regBlock s x))) x
    exact ⟨b, congrArg Host.Outcome.next stored, kept nofun nofun⟩
  case loadRegs x =>
    refine ⟨b, ?_, kept nofun nofun⟩
    rw [exec_loadRegs, loadBlock_withInert, advanceIndex_withInert]
  case ldVxK x =>
    refine ⟨0#8, congrArg Host.Outcome.next (readKey_withInert 0#8 c n s.emitFrame.clearKeysAndTimers x), fun _ => ?_⟩
    rw [readKey_eq]
    rfl
  case ldSTVx x => exact ⟨s.reg x, rfl, fun _ => rfl⟩
  case ret =>
    refine ⟨b, ?_, kept nofun nofun⟩
    split
    next held => exact exec_ret_of_nonempty (s := s.withInert b c n) held
    next empty => exact exec_ret_of_empty (s := s.withInert b c n) (Nat.eq_zero_of_not_pos empty)
  case call =>
    refine ⟨b, ?_, kept nofun nofun⟩
    split
    next room => exact exec_call_of_room (s := s.withInert b c n) room
    next full => exact congrArg Host.Outcome.next (dif_neg full)
  all_goals exact ⟨b, rfl, id⟩

/-- The poll and what it writes do not depend on the three. -/
theorem pollStep_withInert (s : State) : (s.withInert b c n).pollStep = s.pollStep.withInert b c n := by
  have answer : (s.withInert b c n).pollAnswer = s.pollAnswer := rfl
  simp only [State.pollStep, answer]
  split <;> rfl

/-- A frame end counts the sound timer down and reads none of the three. -/
theorem frameEnd_withInert (s : State) : (s.withInert b c n).frameEnd = s.frameEnd.withInert (countDown b) c n := by
  have before : (s.withInert b c n).renderStep.timerStep.agingStep =
      s.renderStep.timerStep.agingStep.withInert (countDown b) c n := by
    rw [beforePoll_eq, beforePoll_eq]; rfl
  rw [State.frameEnd, State.frameEnd, before, pollStep_withInert, endFrame_eq, endFrame_eq,
    apply_ite (State.withInert · (countDown b) c n)]
  rfl

theorem fetchAddr_withInert (s : State) : (s.withInert b c n).fetchAddr = s.fetchAddr := by
  rw [fetchAddr_eq, fetchAddr_eq]; rfl

/-- A due cycle with the three replaced. -/
theorem cycle_withInert {s t : State} (due : s.CycleDue) (h : step s = .next t) :
    ∃ b', step (s.withInert b c n) = .next (t.withInert b' c n) ∧ (b = s.st → b' = t.st) := by
  have due' : (s.withInert b c n).CycleDue := due
  have addr : s.fetchAddr = if (s.withInert b c n).skipPending then (s.withInert b c n).pc + 2#16 else (s.withInert b c n).pc :=
    fetchAddr_eq s
  rcases step_cycle_cases due h with
    ⟨outside, rfl⟩ | ⟨inside, ⟨e, rejected⟩, rfl⟩ | ⟨i, u, ⟨-, inside, rest, decoded⟩, hu, rfl⟩
  · exact ⟨b, step_bounds due' addr outside, id⟩
  · exact ⟨b, step_illegal due' addr inside rejected, id⟩
  · obtain ⟨b', hu', same⟩ := exec_withInert b c n hu
    refine ⟨b', ?_, fun e => (same e).trans ?_⟩
    · rw [step_decoded due' addr inside decoded]
      exact (congrArg counted hu').trans (congrArg Host.Outcome.next (countCycle_withInert b' c n u))
    · rw [countCycle_eq]; split <;> rfl

/-- A step reads none of the three, and writes only the sound timer. -/
theorem step_withInert {s t : State} (h : step s = .next t) :
    ∃ b', step (s.withInert b c n) = .next (t.withInert b' c n) ∧ (b = s.st → b' = t.st) := by
  obtain ⟨hr, hc, ⟨x, wait, rfl⟩ | ⟨hw, room, -⟩ | ⟨hw, full, rfl⟩⟩ := machineStep_cases h
  · refine ⟨b, ?_, fun e => e.trans ?_⟩
    · rw [step_keyWait (s := s.withInert b c n) hr (Nat.pos_of_ne_zero hc) wait, readKey_withInert, countCycle_withInert]
    · rw [countCycle_eq, readKey_eq]; split <;> rfl
  · exact cycle_withInert b c n ⟨hr, Nat.pos_of_ne_zero hc, hw, room⟩ h
  · have due : s.FrameEndDue := ⟨hr, Nat.pos_of_ne_zero hc, hw, full⟩
    refine ⟨countDown b, (step_frameEnd (s := s.withInert b c n) due).trans ?_, fun e => ?_⟩
    · rw [frameEnd_withInert]
    · rw [frameEnd_eq due, e]

end

/-- Settles O51: `step_withInert` with CRY and `idle_count` as they are, which a step keeps. -/
theorem soundTimerIsUnobservable : Obligations.SoundTimerIsUnobservable := by
  intro s t b h
  obtain ⟨b', h', -⟩ := step_withInert b s.q.cry s.idleCount h
  obtain ⟨q, -, -, -, idle⟩ := configurationIsLatched s t .step h
  refine ⟨_, h', ?_⟩
  rw [State.withInert, ← q, ← idle]

/-- Settles O52: `step_withInert` with the sound timer as it is. -/
theorem cryAndIdleCountHaveNoEffect : Obligations.CryAndIdleCountHaveNoEffect := by
  intro s t c n h
  obtain ⟨b', h', same⟩ := step_withInert s.st c n h
  obtain rfl := same rfl
  exact h'

end Sys2Proof.Machine

namespace Sys2Proof.Machine

/-! ## The sprite draw (R211, R212) -/

/-- The sprite bit that falls on cell `(r, c)` when `n` rows from `i0` are drawn with the top left corner at column `x0` of
row `y0`: `spriteBit` with its numbers taken out of the state, so that the rows can be counted. -/
def spriteCell (m : Memory) (i0 x0 y0 n r c : Nat) : Bool :=
  decide ((r + 32 - y0 % 32) % 32 < n) && decide ((c + 64 - x0 % 64) % 64 < 8) &&
    (m.read (i0 + (r + 32 - y0 % 32) % 32)).getLsbD (7 - (c + 64 - x0 % 64) % 64)

theorem spriteBit_eq (s : State) (x y n : Nibble) (r c : Nat) : spriteBit s x y n r c =
    spriteCell s.mem (indexedAddr s 0) (s.reg x).toNat (s.reg y).toNat n.toNat r c := rfl

section
variable (m : Memory) (i0 x0 y0 : Nat) (d : Display)

theorem drawSprite_succ (n : Nat) : drawSprite m i0 x0 y0 (n + 1) d =
    drawRow (m.read (i0 + n)) (y0 + n) x0 (drawSprite m i0 x0 y0 n d) := by
  simp [drawSprite, List.range_succ]

/-- Row `n` falls on display row `r` iff `r` lies `n` rows below the top edge, wrapping. -/
theorem row_eq_iff {n r : Nat} (hn : n < 32) (hr : r < 32) : (y0 + n) % 32 = r ↔ (r + 32 - y0 % 32) % 32 = n := by omega

/-- A cell on which row `n` falls gets the bit of row `n`, and any other cell what the first `n` rows give it. -/
theorem spriteCell_succ {n r : Nat} (c : Nat) (hn : n < 32) (hr : r < 32) : spriteCell m i0 x0 y0 (n + 1) r c =
    if (y0 + n) % 32 = r then
      decide ((c + 64 - x0 % 64) % 64 < 8) && (m.read (i0 + n)).getLsbD (7 - (c + 64 - x0 % 64) % 64)
    else spriteCell m i0 x0 y0 n r c := by
  unfold spriteCell
  split
  next here => simp [(row_eq_iff y0 hn hr).1 here]
  next elsewhere =>
    have : (r + 32 - y0 % 32) % 32 < n + 1 ↔ (r + 32 - y0 % 32) % 32 < n := by
      have := mt (row_eq_iff y0 hn hr).2 elsewhere
      omega
    simp [this]

/-- The first `n` rows leave the display rows they do not fall on to the rows after them (R211 (d)). -/
theorem spriteCell_of_row {n r : Nat} (c : Nat) (hn : n < 32) (hr : r < 32) (here : (y0 + n) % 32 = r) :
    spriteCell m i0 x0 y0 n r c = false := by
  simp [spriteCell, (row_eq_iff y0 hn hr).1 here]

/-- Cell by cell what `n` rows leave. -/
theorem get_drawSprite {r c : Nat} (hr : r < 32) (hc : c < 64) : ∀ n ≤ 32,
    Display.get (drawSprite m i0 x0 y0 n d).1 r c = xor (Display.get d r c) (spriteCell m i0 x0 y0 n r c) := by
  intro n
  induction n with
  | zero => intro _; simp [drawSprite, spriteCell]
  | succ n ih =>
    intro hn
    rw [drawSprite_succ, drawRow, get_drawColumns _ _ _ _ _ hr hc 8 le_rfl, ih (by omega), spriteCell_succ _ _ _ _ _ hn hr]
    by_cases here : (y0 + n) % 32 = r
    · simp [here, spriteCell_of_row _ _ _ _ _ hn hr here]
    · simp [here]

/-- Row `n` meets the buffer as it was before the draw: no earlier row falls on its display row. -/
theorem get_drawSprite_next {n : Nat} (hn : n < 32) (c : Nat) :
    Display.get (drawSprite m i0 x0 y0 n d).1 (y0 + n) c = Display.get d (y0 + n) c := by
  have hr : (y0 + n) % 32 < 32 := Nat.mod_lt _ (by decide)
  rw [← Display.get_mod, get_drawSprite m i0 x0 y0 d hr (Nat.mod_lt _ (by decide)) n (by omega),
    spriteCell_of_row _ _ _ _ _ hn hr rfl, Bool.xor_false, Display.get_mod]

/-- Some row collides iff some set bit falls on a set cell. -/
theorem collision_drawSprite : ∀ n ≤ 32, ((drawSprite m i0 x0 y0 n d).2 = true ↔
    ∃ r < 32, ∃ c < 64, Display.get d r c = true ∧ spriteCell m i0 x0 y0 n r c = true) := by
  intro n
  induction n with
  | zero => intro _; simp [drawSprite, spriteCell]
  | succ n ih =>
    intro hn
    rw [drawSprite_succ, drawRow, collision_drawColumns _ _ _ 8 le_rfl, ih (by omega)]
    constructor
    · rintro (⟨r, hr, c, hc, lit, bit⟩ | ⟨col, hcol, bit, lit⟩)
      · refine ⟨r, hr, c, hc, lit, ?_⟩
        rw [spriteCell_succ _ _ _ _ _ hn hr, if_neg fun here => ?_, bit]
        simp [spriteCell_of_row _ _ _ _ _ hn hr here] at bit
      · have hr : (y0 + n) % 32 < 32 := Nat.mod_lt _ (by decide)
        have column : ((x0 + col) % 64 + 64 - x0 % 64) % 64 = col := by omega
        refine ⟨(y0 + n) % 32, hr, (x0 + col) % 64, Nat.mod_lt _ (by decide), ?_, ?_⟩
        · rwa [Display.get_mod, ← get_drawSprite_next m i0 x0 y0 d hn]
        · rw [spriteCell_succ _ _ _ _ _ hn hr, if_pos rfl, column, bit, decide_eq_true hcol]
          rfl
    · rintro ⟨r, hr, c, hc, lit, bit⟩
      rw [spriteCell_succ _ _ _ _ _ hn hr] at bit
      by_cases here : (y0 + n) % 32 = r
      · rw [if_pos here, Bool.and_eq_true, decide_eq_true_eq] at bit
        obtain ⟨hcol, bit⟩ := bit
        refine .inr ⟨_, hcol, bit, ?_⟩
        have column : (x0 + (c + 64 - x0 % 64) % 64) % 64 = c := by omega
        rw [get_drawSprite_next m i0 x0 y0 d hn, ← Display.get_mod, here, column, lit]
      · rw [if_neg here] at bit
        exact .inl ⟨r, hr, c, hc, lit, bit⟩

end

theorem exec_drw (x y n : Nibble) (s : State) : exec (.drw x y n) s =
    let drawn := drawSprite s.mem (indexedAddr s 0) (s.reg x).toNat (s.reg y).toNat n.toNat s.disp
    .next ((s.setReg vf (flagByte drawn.2)).setDisplay drawn.1) := rfl

/-- What DRW leaves in VF: whether a set sprite bit falls on a set cell (R211). -/
theorem exec_drw_flag {x y n : Nibble} {s t : State} (h : exec (.drw x y n) s = .next t) :
    ∃ collided : Bool, t.reg 15#4 = flagByte collided ∧
      (collided = true ↔ ∃ r < 32, ∃ c < 64, Display.get s.disp r c = true ∧ spriteBit s x y n r c = true) := by
  obtain rfl := Host.Outcome.next.inj h
  exact ⟨_, reg_setReg_same s vf _, collision_drawSprite _ _ _ _ _ _ (by omega)⟩

theorem exec_drw_cells {x y n : Nibble} {s t : State} (h : exec (.drw x y n) s = .next t) {r c : Nat} (hr : r < 32)
    (hc : c < 64) : Display.get t.disp r c = xor (Display.get s.disp r c) (spriteBit s x y n r c) := by
  obtain rfl := Host.Outcome.next.inj h
  exact get_drawSprite _ _ _ _ _ hr hc _ (by omega)

/-- Settles O34: row by row the loop agrees with the closed form, and a row meets no cell that an earlier one flipped. -/
theorem drawMatchesClosedForm : Obligations.DrawMatchesClosedForm := by
  intro x y n s
  have h := exec_drw x y n s
  obtain ⟨collided, flag, collision⟩ := exec_drw_flag h
  refine ⟨_, h, fun r hr c hc => exec_drw_cells h hr hc, fun meets => ?_, fun misses => ?_,
    fun z => reg_setReg_other (s := s), rfl, exec_frame h⟩
  · rw [flag, collision.2 meets]; rfl
  · have clear : collided = false := by
      refine (Bool.not_eq_true _).mp fun hit => ?_
      obtain ⟨r, hr, c, hc, lit, bit⟩ := collision.1 hit
      simp [misses r hr c hc lit] at bit
    rw [flag, clear]; rfl

/-- A draw moves neither the sprite nor, where its coordinates are not in VF, the place. -/
theorem spriteBit_after_drw {x y n : Nibble} {s t : State} (hx : x ≠ 15#4) (hy : y ≠ 15#4)
    (h : exec (.drw x y n) s = .next t) (r c : Nat) : spriteBit t x y n r c = spriteBit s x y n r c := by
  have kept (z : Nibble) (hz : z ≠ 15#4) : t.reg z = s.reg z :=
    registersChangeOnlyAsNamed _ s t z h rfl fun isFlag => absurd isFlag hz
  have frame : t = { s with v := t.v, disp := t.disp, renderPending := t.renderPending } := exec_frame h
  rw [spriteBit_eq, spriteBit_eq, kept x hx, kept y hy, frame]
  rfl

/-- Settles O35: flipping the same cells twice restores them, and the second draw collides where the first set a cell. -/
theorem drawingTwiceRestores : Obligations.DrawingTwiceRestores := by
  intro x y n s t hx hy h
  obtain ⟨u, hu⟩ := exec_next (.drw x y n) t
  have again := spriteBit_after_drw hx hy h
  refine ⟨u, hu, Display.ext_cells fun r hr c hc => ?_, ?_⟩
  · rw [exec_drw_cells hu hr hc, exec_drw_cells h hr hc, again, Bool.xor_assoc, Bool.xor_self, Bool.xor_false]
  · obtain ⟨collided, flag, collision⟩ := exec_drw_flag hu
    have reported : u.reg 15#4 = 1#8 ↔ collided = true := by
      rw [flag]; cases collided <;> decide
    rw [reported, collision]
    refine exists_congr fun r => and_congr_right fun hr => exists_congr fun c => and_congr_right fun hc => ?_
    rw [exec_drw_cells h hr hc, again]
    cases Display.get s.disp r c <;> simp

end Sys2Proof.Machine

namespace Sys2Proof.Machine

/-! ## Runs: how long a key is held and a timer counts (R231, R266 to R268, R274) -/

/-- What a cycle leaves as it was is what the instruction it executes leaves: the fetch and the count touch only `pc`, the
skip flag, the status and `cyc` (R94, R275). -/
theorem cycle_keeps {α : Type} (f : State → α)
    (fetch : ∀ (s : State) (pc : Word) (skip : Bool) (status : Status),
      f { s with pc := pc, skipPending := skip, status := status } = f s)
    (count : ∀ (s : State) (cyc : Nat), f { s with cyc := cyc } = f s) {s t : State} (due : s.CycleDue)
    (kept : ∀ i u v, s.Executes i → exec i u = .next v → f v = f u) (h : step s = .next t) : f t = f s := by
  rcases step_cycle_cases due h with ⟨-, rfl⟩ | ⟨-, -, rfl⟩ | ⟨i, u, executes, hu, rfl⟩
  · exact fetch s _ _ _
  · exact fetch s _ _ _
  · have counted : f u.countCycle = f u := by
      rw [countCycle_eq]
      split
      · exact count u _
      · rfl
    exact counted.trans ((kept i _ u executes hu).trans (fetch s _ _ s.status))

/-- A number that the instructions a run may execute leave, and that every frame end lowers by 1, is lowered by the count of
the frame ends. -/
theorem Run.lowered {allowed : Instr → Prop} {polled : KeyAnswer → Prop} (f : State → Nat)
    (fetch : ∀ (s : State) (pc : Word) (skip : Bool) (status : Status),
      f { s with pc := pc, skipPending := skip, status := status } = f s)
    (count : ∀ (s : State) (cyc : Nat), f { s with cyc := cyc } = f s)
    (kept : ∀ (i : Instr) (u v : State), allowed i → exec i u = .next v → f v = f u)
    (frameEnd : ∀ s : State, s.FrameEndDue → polled s.pollAnswer → f s.frameEnd = f s - 1) {s t : State} {m : Nat}
    (run : Run allowed polled s m t) : f t = f s - m := by
  induction run with
  | start => rfl
  | cycle _ due only h ih =>
    rw [cycle_keeps f fetch count due (fun i u v executes => kept i u v (only i executes)) h, ih]
  | frameEnd _ due answer h ih =>
    rw [step_frameEnd due] at h
    obtain rfl := Host.Outcome.next.inj h
    rw [frameEnd _ due answer, ih, Nat.sub_sub]

theorem keySlot_exec {i : Instr} {s t : State} (h : exec i s = .next t) (notWait : ∀ x, i ≠ .ldVxK x) (k : Nibble) :
    t.keySlot k = s.keySlot k := by
  obtain ⟨key, -⟩ := exec_key_kept h notWait
  rw [State.keySlot, key]
  rfl

/-- A frame end that polls another key, or none, ages the slot of `k`: no two keys share one (R267 to R269). -/
theorem keySlot_frameEnd_of_other {s : State} {k : KeyName} (due : s.FrameEndDue) (other : s.pollAnswer ≠ some (.key k)) :
    s.frameEnd.keySlot (keyIndex k) = s.keySlot (keyIndex k) - 1 := by
  by_cases listed : ∃ k', s.pollAnswer = some (.key k')
  · obtain ⟨k', listed⟩ := listed
    have otherSlot : keyIndex k ≠ keyIndex k' := fun e => other (by rw [listed, keyIndex_injective e])
    rw [keySlot_frameEnd_of_key due listed, if_neg otherSlot]
  · exact keySlot_frameEnd_of_no_key due (fun k' e => listed ⟨k', e⟩) _

/-- Settles O44: the slot is `KEY_HOLD` after the first frame end, and every later one takes 1 from it. -/
theorem keyIsHeldForKeyHoldFrames : Obligations.KeyIsHeldForKeyHoldFrames := by
  intro s t u k m due answer h run
  rw [step_frameEnd due] at h
  obtain rfl := Host.Outcome.next.inj h
  have held : u.keySlot (keyIndex k) = s.keyHold - m := by
    rw [run.lowered (State.keySlot · (keyIndex k)) (fun _ _ _ _ => rfl) (fun _ _ => rfl)
      (fun i u v only h => keySlot_exec h only _) (fun s due other => keySlot_frameEnd_of_other due other),
      keySlot_frameEnd_of_key due answer, if_pos rfl]
  refine ⟨held, ?_⟩
  rw [State.pressed, held, decide_eq_true_eq]
  omega

/-- Settles O45: each timer is kept by every instruction but its writers, and counted down by every frame end. -/
theorem timerReachesZeroAfterItsValue : Obligations.TimerReachesZeroAfterItsValue := by
  intro s t m
  refine ⟨Run.lowered (fun s => s.dt.toNat) (fun _ _ _ _ => rfl) (fun _ _ => rfl) (fun i u v only h => ?_) fun s due _ => ?_,
    Run.lowered (fun s => s.st.toNat) (fun _ _ _ _ => rfl) (fun _ _ => rfl) (fun i u v only h => ?_) fun s due _ => ?_⟩
  · exact congrArg BitVec.toNat (exec_dt_kept h only.1 only.2)
  · rw [frameEnd_eq due]
    exact countDown_toNat s.dt
  · exact congrArg BitVec.toNat (exec_st_kept h only.1 only.2)
  · rw [frameEnd_eq due]
    exact countDown_toNat s.st

end Sys2Proof.Machine

namespace Sys2Proof.Machine

/-! ## Calibration and the state a boot ends in (R39, R271, R272, R300 to R306) -/

theorem clockReading_eq (fallback : Bool) (ms : Nat) : clockReading fallback ms = if fallback then ms - ms % 1000 else ms := by
  unfold clockReading
  split
  · omega
  · rfl

/-- Settles O59: read through the clock, the readings before the nonzero one all span no time, which `calMeasure` retries. -/
theorem calibrationUsesTheFirstNonzeroReading : Obligations.CalibrationUsesTheFirstNonzeroReading := by
  intro n0 overhead cpf t0 t1 grow fallback zeros rest clock hclock zero nonzero
  have read : clockReading fallback = clock := funext fun ms => (clockReading_eq fallback ms).trans (hclock ms).symm
  have spanless : ∀ r ∈ zeros.map (fun t => (clock t.1, clock t.2)), r.2 - r.1 = 0 := by
    simp only [List.mem_map]
    rintro _ ⟨r, hr, rfl⟩
    exact Nat.sub_eq_zero_of_le (zero r hr).ge
  rw [calibrate, read, List.map_append, List.map_cons,
    calMeasure_retries grow _ spanless _ _ _ _ (Nat.sub_ne_zero_of_lt nonzero), List.length_map]
  rfl

/-- Memory after the load: the image from 0x200, and what unlisted cells read as elsewhere (R301, R302). -/
theorem loadProgram_read (image : List Byte) {a : Nat} (ha : a < 4096) : (loadProgram image).read a =
    if 0x200 ≤ a ∧ a - 0x200 < image.length then image.getD (a - 0x200) 0#8 else Memory.unlisted a := by
  have short : (image.take Config.progMax).length ≤ 3584 := by simp [Config.progMax]
  split
  next inside =>
    obtain ⟨low, high⟩ := inside
    have taken : a - 0x200 < (image.take Config.progMax).length := by simp [Config.progMax]; omega
    have := Memory.read_writeBytes (m := []) (a := Config.progBase) (short.trans (by decide)) taken
    rw [Config.progBase, Nat.add_sub_cancel' low, List.getElem_take] at this
    rw [loadProgram, Config.progBase, this, List.getD_eq_getElem _ _ high]
  next outside =>
    rw [loadProgram, Memory.read_writeBytes_other]
    · simp [Memory.read, Memory.lookup, Config.memSize, Nat.mod_eq_of_lt ha]
    · intro k hk
      simp only [List.length_take, Config.progMax, Config.progBase, Config.memSize] at *
      omega

/-- A reset sequence over a nonempty image that answers next has calibrated and booted (R300, R303). -/
theorem resetSequence_of_image {cfg : BootConfig} {image : List Byte} {fallback : Bool} {readings : List (Nat × Nat)}
    {t : State} (nonempty : image ≠ []) (h : resetSequence cfg (some image) fallback readings = .next t) :
    ∃ idle, calibrate Config.calN0 Config.calGrow Config.calOverhead cfg.cpf fallback readings = some idle ∧
      t = booted cfg image idle := by
  rcases resetSequence_cases h with rfl | ⟨image', idle, himage, -, -, -, calibrated, e⟩
  · obtain ⟨b, bs, rfl⟩ := List.exists_cons_of_ne_nil nonempty
    simp only [resetSequence] at h
    split at h
    · cases h
    split at h
    · cases h
    split at h
    · cases h
    · cases congrArg State.status (Host.Outcome.next.inj h)
  · obtain rfl := Option.some.inj himage
    exact ⟨idle, calibrated, e⟩

/-- The memory column of R39. -/
theorem loadProgram_read_table (image : List Byte) {a : Nat} (ha : a < 4096) : (loadProgram image).read a =
    if h : 0x080 ≤ a ∧ a - 0x080 < 80 then Config.font ⟨a - 0x080, h.2⟩
    else if 0x200 ≤ a then image.getD (a - 0x200) 0#8 else 0#8 := by
  rw [loadProgram_read image ha]
  by_cases low : 0x200 ≤ a
  · have notFont : ¬(0x080 ≤ a ∧ a - 0x080 < 80) := by omega
    rw [dif_neg notFont, if_pos low]
    split
    · rfl
    next outside =>
      rw [List.getD_eq_default _ _ (by omega)]
      exact dif_neg notFont
  · rw [if_neg (fun inside => low inside.1), if_neg low]
    rfl

/-- Settles O56: the booted state is written out by `booted`, and its memory by the program load. -/
theorem bootedStateIsTheResetTable : Obligations.BootedStateIsTheResetTable := by
  intro cfg image fallback readings t nonempty h
  obtain ⟨idle, calibrated, rfl⟩ := resetSequence_of_image nonempty h
  refine ⟨fun a ha => loadProgram_read_table image ha, fun r => ?_, rfl, rfl, rfl, fun j hj => ?_, rfl, rfl,
    fun r _ c _ => Display.get_blank r c, rfl, fun k => ?_, rfl, rfl, rfl, rfl, rfl, calibrated⟩
  · simp [State.reg, booted, State.zeroed]
  · simp [booted, State.zeroed, hj]
  · simp [State.keySlot, booted, State.zeroed]

/-- The clock readings of the boot that `State.reset` stands for: `Config.calRetries` attempts that span no time, then one
of `Config.calElapsed` ms (log 10). -/
def resetReadings : List (Nat × Nat) := List.replicate Config.calRetries (0, 0) ++ [(0, Config.calElapsed)]

theorem calibrate_resetReadings (cpf : Nat) :
    calibrate Config.calN0 Config.calGrow Config.calOverhead cpf false resetReadings = some (bootIdleCount cpf) := by
  have := calibrationUsesTheFirstNonzeroReading Config.calN0 Config.calOverhead cpf 0 Config.calElapsed Config.calGrow false
    (List.replicate Config.calRetries (0, 0)) [] id (fun _ => rfl) (fun r hr => by rw [List.eq_of_mem_replicate hr])
    (Nat.succ_pos _)
  simp [resetReadings, this, bootIdleCount, calGrown_eq, calIdleCount]

/-- The byte 00 at 0x200 is what that cell reads as anyway, so the memory list stays empty (log 4). -/
theorem loadProgram_zero : loadProgram [0x00#8] = [] := by decide

/-- Settles O57: the readings are those of `bootIdleCount`, and the image leaves memory as it was. -/
theorem resetIsABootOfTheDefaults : Obligations.ResetIsABootOfTheDefaults := by
  refine ⟨resetReadings, ?_⟩
  have clock : (20 : Nat) ≠ 0 := by decide
  have hold : Config.keyHold ≠ 0 := Nat.succ_ne_zero _
  simp only [resetSequence, Config.defaultCpf, if_neg clock, if_neg hold, calibrate_resetReadings, booted, loadProgram_zero]
  rfl

/-- Settles O53: every component the invariant bounds is 0 at reset but `pc`, `CPF` and `KEY_HOLD`. -/
theorem resetMeetsTheInvariant : Obligations.ResetMeetsTheInvariant where
  memory := Memory.empty_wf
  keys k := by simp [State.keySlot, State.reset, State.zeroed]
  hold := Nat.succ_pos _
  clock := by decide
  cycles := Nat.zero_le _
  counter := by decide
  skip := nofun
  returns j held := absurd held (Nat.not_lt_zero j)
  waiting := nofun

end Sys2Proof.Machine

namespace Sys2Proof.Machine

/-! ## Every step keeps the invariant (R24, R26, R34, R40, R233) -/

/-- Every entry held is the address just past an instruction of the window. -/
def State.ReturnsInWindow (s : State) : Prop :=
  ∀ j < s.sp.val, ∀ a, s.stack[j]? = some a → 0x202 ≤ a.toNat ∧ a.toNat ≤ 0x1001

/-- The part of the invariant that is neither a bound of R40, which `WithinBounds` has, nor about the latched
configuration. -/
structure State.Control (s : State) : Prop where
  memory : s.mem.wf
  counter : s.pc.toNat ≤ 0x10FE
  skip : s.skipPending = true → s.pc.toNat ≤ 0x1001
  returns : s.ReturnsInWindow
  waiting : s.keyWait ≠ none → s.status = .running ∧ s.skipPending = false ∧ s.dt = 0#8 ∧ s.st = 0#8 ∧
    s.renderPending = false ∧ ∀ k, s.keySlot k = 0

theorem State.Inv.control {s : State} (h : s.Inv) : s.Control := by
  refine ⟨h.memory, h.counter, h.skip, fun j hj a ha => ?_, fun wait => ?_⟩
  · have room : j < 1792 := by have := s.sp.isLt; omega
    rw [Vector.getElem?_eq_getElem room] at ha
    obtain rfl := Option.some.inj ha
    exact h.returns j hj
  · obtain ⟨running, noSkip, dt, st, noRender, keys, -⟩ := h.waiting (Option.isSome_iff_ne_none.2 wait)
    exact ⟨running, noSkip, dt, st, noRender, keys⟩

theorem State.Inv.withinBounds {s : State} (h : s.Inv) : s.WithinBounds := by
  refine ⟨h.keys, h.cycles, fun wait => ?_⟩
  obtain ⟨-, -, -, -, -, -, room⟩ := h.waiting (Option.isSome_iff_ne_none.2 wait)
  exact room

/-- The three parts make the invariant. -/
theorem inv_of_parts {s : State} (control : s.Control) (bounds : s.WithinBounds) (hold : 1 ≤ s.keyHold)
    (clock : 1 ≤ s.cpf) : s.Inv where
  memory := control.memory
  keys := bounds.keys
  hold := hold
  clock := clock
  cycles := bounds.cycles
  counter := control.counter
  skip := control.skip
  returns _ hj := control.returns _ hj _ (Vector.getElem?_eq_getElem _)
  waiting wait := by
    have wait := Option.isSome_iff_ne_none.1 wait
    obtain ⟨running, noSkip, dt, st, noRender, keys⟩ := control.waiting wait
    exact ⟨running, noSkip, dt, st, noRender, keys, bounds.waiting wait⟩

/-! ### The instruction -/

/-- What holds where an instruction executes: `pc` is just past an instruction of the window, the skip is consumed, and no
key wait is open (R94, R97). -/
structure State.Fetched (s : State) : Prop where
  control : s.Control
  low : 0x202 ≤ s.pc.toNat
  high : s.pc.toNat ≤ 0x1001
  running : s.status = .running
  noSkip : s.skipPending = false
  noWait : s.keyWait = none

theorem wf_exec {i : Instr} {s t : State} (h : exec i s = .next t) (hs : s.mem.wf) : t.mem.wf := by
  cases i
  case ldB =>
    obtain rfl := Host.Outcome.next.inj h
    exact Memory.writeBytes_wf hs _
  case storeRegs =>
    obtain rfl := Host.Outcome.next.inj h
    rw [advanceIndex_eq]
    exact Memory.writeBytes_wf hs _
  all_goals
    rw [exec_frame h]
    exact hs

/-- 0x10FE is the greatest value an instruction puts into `pc` (R121 to R124). -/
theorem counter_exec {i : Instr} {s t : State} (h : exec i s = .next t) (hs : s.Fetched) : t.pc.toNat ≤ 0x10FE := by
  have target (nnn : Addr) : nnn.toWord.toNat ≤ 0x10FE := by
    have := nnn.isLt
    rw [toNat_addr_toWord]
    omega
  cases i
  case ret =>
    rcases exec_ret_cases h with rfl | ⟨held, rfl⟩
    · exact hs.control.counter
    · obtain ⟨-, high⟩ := hs.control.returns (s.sp.val - 1) (by omega) _ (stack_popReturn_sp held)
      exact high.trans (by decide)
  case jp nnn =>
    obtain rfl := Host.Outcome.next.inj h
    exact target nnn
  case call nnn =>
    rcases exec_call_cases h with ⟨room, rfl⟩ | ⟨-, rfl⟩
    · exact target nnn
    · exact hs.control.counter
  case jpV0 nnn =>
    obtain rfl := Host.Outcome.next.inj h
    obtain ⟨sum, bound⟩ := toNat_target_add_offset nnn (s.reg (jumpRegister s nnn))
    exact sum.trans_le bound
  all_goals
    rw [exec_pc_kept h rfl]
    exact hs.control.counter

/-- No skip instruction writes `pc` (R140). -/
theorem transfers_of_skips {i : Instr} (h : i.skips = true) : i.transfers = false := by
  cases i
  case seImm | sneImm | seReg | sneReg | skp | sknp => rfl
  all_goals cases h

theorem skip_exec {i : Instr} {s t : State} (h : exec i s = .next t) (hs : s.Fetched) (pending : t.skipPending = true) :
    t.pc.toNat ≤ 0x1001 := by
  cases skips : i.skips
  · rw [exec_skipPending_kept h skips, hs.noSkip] at pending
    cases pending
  · rw [exec_pc_kept h (transfers_of_skips skips)]
    exact hs.high

/-- CALL pushes a `pc` that is just past an instruction of the window, and no entry changes while it is held. -/
theorem returns_exec {i : Instr} {s t : State} (h : exec i s = .next t) (hs : s.Fetched) : t.ReturnsInWindow := by
  have held := hs.control.returns
  by_cases ret : i = .ret
  · subst ret
    rcases exec_ret_cases h with rfl | ⟨nonempty, rfl⟩
    · exact held
    · exact fun j hj => held j (lt_of_lt_of_le hj (Nat.sub_le _ _))
  by_cases call : ∃ nnn, i = .call nnn
  · obtain ⟨nnn, rfl⟩ := call
    rcases exec_call_cases h with ⟨room, rfl⟩ | ⟨-, rfl⟩
    · intro j hj a ha
      rw [setPc_stack, stack_pushReturn] at ha
      split at ha
      · obtain rfl := Option.some.inj ha
        exact ⟨hs.low, hs.high⟩
      · have hj : j < s.sp.val + 1 := hj
        exact held j (by omega) a ha
    · exact held
  · obtain ⟨stack, sp⟩ := exec_stack_kept h ret fun nnn e => call ⟨nnn, e⟩
    rw [State.ReturnsInWindow, stack, sp]
    exact held

/-- Only `Fx0A` opens a key wait, and it leaves everything a wait requires (R233). -/
theorem waiting_exec {i : Instr} {s t : State} (h : exec i s = .next t) (hs : s.Fetched) (wait : t.keyWait ≠ none) :
    t.status = .running ∧ t.skipPending = false ∧ t.dt = 0#8 ∧ t.st = 0#8 ∧ t.renderPending = false ∧
      ∀ k, t.keySlot k = 0 := by
  by_cases isWait : ∃ x, i = .ldVxK x
  · obtain ⟨x, rfl⟩ := isWait
    obtain ⟨t', h', -, render, keys, dt, st, -, -, ofEsc, -⟩ := keyWaitClearsAndReads x s
    obtain rfl := Host.Outcome.next.inj (h.symm.trans h')
    have running : t.status = .running := by
      by_contra ended
      rcases onlyFullCallAndEscEndTheRun _ s t h (hs.running ▸ ended) with ⟨nnn, isCall, -⟩ | ⟨-, -, esc, -⟩
      · cases isCall
      · obtain ⟨-, closed, -⟩ := ofEsc esc
        exact wait closed
    exact ⟨running, (exec_skipPending_kept h rfl).trans hs.noSkip, dt, st, render, keys⟩
  · have kept : t.keyWait = s.keyWait := by
      cases i
      case ldVxK x => exact absurd ⟨x, rfl⟩ isWait
      all_goals exact (congrArg State.keyWait (exec_frame h) :)
    exact absurd (kept.trans hs.noWait) wait

theorem control_exec {i : Instr} {s t : State} (h : exec i s = .next t) (hs : s.Fetched) : t.Control :=
  ⟨wf_exec h hs.control.memory, counter_exec h hs, skip_exec h hs, returns_exec h hs, waiting_exec h hs⟩

/-! ### The step -/

theorem control_countCycle {s : State} (h : s.Control) : s.countCycle.Control := by
  rcases countCycle_cases s with ⟨-, -, e⟩ | ⟨-, e⟩ <;> rw [e]
  · exact ⟨h.memory, h.counter, h.skip, h.returns, h.waiting⟩
  · exact h

theorem control_readKey {s : State} {x : Nibble} (wait : s.keyWait = some x) (h : s.Control) : (s.readKey x).Control := by
  rcases readKey_cases s x with ⟨k, -, e⟩ | ⟨-, e⟩ | ⟨-, e⟩ <;> rw [e]
  · exact ⟨h.memory, h.counter, h.skip, h.returns, fun notNone => absurd rfl notNone⟩
  · exact ⟨h.memory, h.counter, h.skip, h.returns, fun notNone => absurd rfl notNone⟩
  · exact ⟨h.memory, h.counter, h.skip, h.returns, fun _ => h.waiting (by simp [wait])⟩

/-- A fetch address is at most 0x10FE: a pending skip adds 2 to a `pc` of at most 0x1001 (R95). -/
theorem fetchAddr_le {s : State} (h : s.Control) : s.fetchAddr.toNat ≤ 0x10FE := by
  rw [fetchAddr_eq]
  split
  next pending =>
    have := h.skip pending
    rw [BitVec.toNat_add, BitVec.toNat_ofNat]
    omega
  next => exact h.counter

/-- The fetch, with whatever `pc` it leaves, and its halts. -/
theorem control_fetch {s : State} {pc : Word} {status : Status} (h : s.Control) (noWait : s.keyWait = none)
    (hpc : pc.toNat ≤ 0x10FE) :
    State.Control { s with pc := pc, skipPending := false, status := status } :=
  ⟨h.memory, hpc, nofun, h.returns, fun wait => absurd noWait wait⟩

theorem toNat_pastFetch {a : Word} (h : inWindow a = true) : 0x202 ≤ (a + 2#16).toNat ∧ (a + 2#16).toNat ≤ 0x1001 := by
  obtain ⟨low, high⟩ := (inWindow_iff a).1 h
  rw [BitVec.toNat_add, BitVec.toNat_ofNat]
  omega

theorem control_cycle {s t : State} (due : s.CycleDue) (hs : s.Control) (h : step s = .next t) : t.Control := by
  have ⟨running, _, noWait, _⟩ := due
  rcases step_cycle_cases due h with ⟨-, rfl⟩ | ⟨inside, -, rfl⟩ | ⟨i, u, ⟨-, inside, -⟩, hu, rfl⟩
  · exact control_fetch hs noWait (fetchAddr_le hs)
  · obtain ⟨-, high⟩ := toNat_pastFetch inside
    exact control_fetch hs noWait (high.trans (by decide))
  · obtain ⟨low, high⟩ := toNat_pastFetch inside
    have fetched := control_fetch hs noWait (status := s.status) (high.trans (by decide))
    exact control_countCycle (control_exec hu ⟨fetched, low, high, running, rfl, noWait⟩)

theorem control_frameEnd {s : State} (due : s.FrameEndDue) (hs : s.Control) : s.frameEnd.Control := by
  have ⟨_, _, noWait, _⟩ := due
  rw [frameEnd_eq due]
  exact ⟨hs.memory, hs.counter, hs.skip, hs.returns, fun wait => absurd noWait wait⟩

theorem control_step {s t : State} (hs : s.Control) (h : step s = .next t) : t.Control := by
  obtain ⟨hr, hc, ⟨x, wait, rfl⟩ | ⟨hw, room, -⟩ | ⟨hw, full, rfl⟩⟩ := machineStep_cases h
  · exact control_countCycle (control_readKey wait hs)
  · exact control_cycle ⟨hr, Nat.pos_of_ne_zero hc, hw, room⟩ hs h
  · exact control_frameEnd ⟨hr, Nat.pos_of_ne_zero hc, hw, full⟩ hs

/-- Settles O54: the invariant is what `control_step` keeps, the bounds every move keeps (`withinBounds_move`), and two facts
about the latched configuration. -/
theorem stepKeepsTheInvariant : Obligations.StepKeepsTheInvariant := by
  intro s t hs h
  obtain ⟨-, cpf, -, keyHold, -⟩ := configurationIsLatched s t .step h
  exact inv_of_parts (control_step hs.control h) (withinBounds_move s t .step hs.withinBounds h)
    (keyHold ▸ hs.hold) (cpf ▸ hs.clock)

end Sys2Proof.Machine
